-- ==== Sys2Proof/Word.lean ====
section
/-! DEFINITION. The word of the machine (18 bits), the 9-bit address, and the signed reading of a word
(spec/00_scope.md R6 to R8). -/

namespace Sys2Proof

/-- A machine word: `t s r a i`, a stack cell, a memory cell (R6, `WORD`). R7: it has 18 bits, numbered 17
down to 0, bit 0 the least significant; `v[n]` is `v.getLsbD n`, `v[hi:lo]` is
`v.extractLsb' lo (hi - lo + 1)`, and `x || y` is `x ++ y`. -/
abbrev Word := BitVec 18

/-- An effective address: one of the 512 words a node can name (R60). -/
abbrev Addr := BitVec 9

/-- `SIGN`, bit 17 of a word (R6). -/
def signBit : Word := 0x20000#18

/-- `signed(v)`: bit 17 is the sign bit (R8). -/
def signed (v : Word) : Int := v.toInt

end Sys2Proof
end

