-- ==== Sys2Proof/Syntax.lean ====
section
/-! DEFINITION. The instructions as a program means them: four slots, the destination a transfer carries,
the 32 mnemonics, and `Instr` with one constructor per row of the opcode table
(spec/30_encoding.md R120, R125, R131). Operands are implicit but for destinations. -/

namespace Sys2Proof

/-- The four opcode positions of a word, `one` being executed first and holding the top bits (R16). -/
inductive Slot where
  | one | two | three | four
  deriving DecidableEq, Repr

/-- The destination a control transfer carries: its width follows the slot of the transfer (R125);
slot 4 carries none (R142). -/
inductive Dest where
  /-- `W[9:0]`, of a transfer in slot 1 -/
  | slot1 (d : BitVec 10)
  /-- `W[7:0]`, of a transfer in slot 2 -/
  | slot2 (d : BitVec 8)
  /-- `W[2:0]`, of a transfer in slot 3 -/
  | slot3 (d : BitVec 3)
  deriving DecidableEq, Repr

/-- The slot a destination of this width belongs to (R125). -/
def Dest.slot : Dest → Slot
  | .slot1 _ => .one
  | .slot2 _ => .two
  | .slot3 _ => .three

/-- The 32 mnemonics (R131), in the order of the table. -/
inductive Op where
  /-- `;` -/
  | ret
  /-- `ex` -/
  | ex
  /-- `jump` -/
  | jump
  /-- `call` -/
  | call
  /-- `unext` -/
  | unext
  /-- `next` -/
  | next
  /-- `if` -/
  | ifZero
  /-- `-if` -/
  | ifPlus
  /-- `@p` -/
  | fetchP
  /-- `@+` -/
  | fetchPlus
  /-- `@b` -/
  | fetchB
  /-- `@` -/
  | fetchA
  /-- `!p` -/
  | storeP
  /-- `!+` -/
  | storePlus
  /-- `!b` -/
  | storeB
  /-- `!` -/
  | storeA
  /-- `+*` -/
  | mulStep
  /-- `2*` -/
  | shl
  /-- `2/` (the table's row `2`) -/
  | shr
  /-- `-` -/
  | inv
  /-- `+` -/
  | add
  /-- `and` -/
  | and
  /-- `or`, exclusive or -/
  | xor
  /-- `drop` -/
  | drop
  /-- `dup` -/
  | dup
  /-- `pop` -/
  | pop
  /-- `over` -/
  | over
  /-- `a` -/
  | readA
  /-- `.` -/
  | nop
  /-- `push` -/
  | push
  /-- `b!` -/
  | setB
  /-- `a!` -/
  | setA
  deriving DecidableEq, Repr

/-- All 32 mnemonics. -/
def Op.all : List Op :=
  [.ret, .ex, .jump, .call, .unext, .next, .ifZero, .ifPlus,
   .fetchP, .fetchPlus, .fetchB, .fetchA, .storeP, .storePlus, .storeB, .storeA,
   .mulStep, .shl, .shr, .inv, .add, .and, .xor, .drop,
   .dup, .pop, .over, .readA, .nop, .push, .setB, .setA]

/-- The mnemonics that read a destination: "jump/call/next/if/minus-if" (R152, R131 column "dest"). -/
def Op.takesDest : Op → Bool
  | .jump | .call | .next | .ifZero | .ifPlus => true
  | _ => false

/-- An instruction: a mnemonic, with its destination where it takes one. -/
inductive Instr where
  /-- `;` return (R183) -/
  | ret
  /-- `ex` execute (R184) -/
  | ex
  /-- `jump` (R180) -/
  | jump (d : Dest)
  /-- `call` (R181) -/
  | call (d : Dest)
  /-- `unext` micro-next (R185) -/
  | unext
  /-- `next` (R182) -/
  | next (d : Dest)
  /-- `if`: branch when `t` is zero (R186) -/
  | ifZero (d : Dest)
  /-- `-if`: branch when `t` is not negative (R187) -/
  | ifPlus (d : Dest)
  /-- `@p` (R240) -/
  | fetchP
  /-- `@+` (R241) -/
  | fetchPlus
  /-- `@b` (R242) -/
  | fetchB
  /-- `@` (R243) -/
  | fetchA
  /-- `!p` (R244) -/
  | storeP
  /-- `!+` (R245) -/
  | storePlus
  /-- `!b` (R246) -/
  | storeB
  /-- `!` (R247) -/
  | storeA
  /-- `+*` multiply step (R200) -/
  | mulStep
  /-- `2*` (R201) -/
  | shl
  /-- `2/` (R202) -/
  | shr
  /-- `-` bitwise complement (R203) -/
  | inv
  /-- `+` (R204) -/
  | add
  /-- `and` (R205) -/
  | and
  /-- `or`, exclusive or (R206) -/
  | xor
  /-- `drop` (R220) -/
  | drop
  /-- `dup` (R221) -/
  | dup
  /-- `pop` (R222) -/
  | pop
  /-- `over` (R223) -/
  | over
  /-- `a` (R224) -/
  | readA
  /-- `.` no operation (R225) -/
  | nop
  /-- `push` (R226) -/
  | push
  /-- `b!` (R227) -/
  | setB
  /-- `a!` (R228) -/
  | setA
  deriving DecidableEq, Repr

/-- The mnemonic of an instruction. -/
def Instr.op : Instr → Op
  | .ret => .ret
  | .ex => .ex
  | .jump _ => .jump
  | .call _ => .call
  | .unext => .unext
  | .next _ => .next
  | .ifZero _ => .ifZero
  | .ifPlus _ => .ifPlus
  | .fetchP => .fetchP
  | .fetchPlus => .fetchPlus
  | .fetchB => .fetchB
  | .fetchA => .fetchA
  | .storeP => .storeP
  | .storePlus => .storePlus
  | .storeB => .storeB
  | .storeA => .storeA
  | .mulStep => .mulStep
  | .shl => .shl
  | .shr => .shr
  | .inv => .inv
  | .add => .add
  | .and => .and
  | .xor => .xor
  | .drop => .drop
  | .dup => .dup
  | .pop => .pop
  | .over => .over
  | .readA => .readA
  | .nop => .nop
  | .push => .push
  | .setB => .setB
  | .setA => .setA

/-- The destination of an instruction, where it carries one. -/
def Instr.dest : Instr → Option Dest
  | .jump d | .call d | .next d | .ifZero d | .ifPlus d => some d
  | .ret | .ex | .unext
  | .fetchP | .fetchPlus | .fetchB | .fetchA | .storeP | .storePlus | .storeB | .storeA
  | .mulStep | .shl | .shr | .inv | .add | .and | .xor
  | .drop | .dup | .pop | .over | .readA | .nop | .push | .setB | .setA => none

end Sys2Proof
end

