-- ==== Sys2Proof/Config.lean ====
section
/-! DEFINITION. What an implementation fixes: the parameters of spec/00_scope.md R6 as plain data, and the
constraints the spec puts on a choice of them (spec/20_memory.md R72, R91; spec/30_encoding.md R142;
spec/93_implementation_defined.md U4, U5). The values the spec gives as defaults stand in Decode.lean. -/

namespace Sys2Proof

/-- The four neighbour directions (R17). -/
inductive Dir where
  | right | down | left | up
  deriving DecidableEq, Repr

/-- The fixed selection order right, down, left, up (R76). -/
def Dir.all : List Dir := [.right, .down, .left, .up]

/-- One value per direction. -/
structure PerDir (α : Type) where
  right : α
  down : α
  left : α
  up : α
  deriving DecidableEq, Repr

/-- The value at a direction. -/
def PerDir.get {α : Type} (x : PerDir α) : Dir → α
  | .right => x.right
  | .down => x.down
  | .left => x.left
  | .up => x.up

/-- The same values but at one direction. -/
def PerDir.set {α : Type} (x : PerDir α) (d : Dir) (v : α) : PerDir α :=
  match d with
  | .right => { x with right := v }
  | .down => { x with down := v }
  | .left => { x with left := v }
  | .up => { x with up := v }

/-- The four values in the order right, down, left, up. -/
def PerDir.toList {α : Type} (x : PerDir α) : List α := [x.right, x.down, x.left, x.up]

/-- The parameters of R6 that stay with a running node as values. `ROM_IMAGE`, `RESET` and `PRESENT`, which
fix what a node starts with, stand beside them in `Machine.Params`. -/
structure Config where
  /-- `IMASK` (R122, R126) -/
  imask : Word
  /-- `OPCODE` (R131), written as the table of R131: the mnemonic at each opcode number -/
  opcodes : Vector Op 32
  /-- `PORT_PATTERN`, over address bits 3:0 (R75) -/
  portPattern : BitVec 4
  /-- `ADDR_IO` (R71) -/
  addrIo : Addr
  /-- `ADDR_DATA` (R71) -/
  addrData : Addr
  /-- `ADDR_STDIO` (R71) -/
  addrStdio : Addr
  /-- `ADDR_STDIN` (R71) -/
  addrStdin : Addr
  /-- `ADDR_STDOUT` (R71) -/
  addrStdout : Addr
  /-- `ADDR_TTY` (R71) -/
  addrTty : Addr
  /-- `ST_RD(d)` (R77, R91) -/
  stRd : PerDir Word
  /-- `ST_WR(d)` (R77, R91) -/
  stWr : PerDir Word
  /-- `BIN_RD(d)`: the byte transport's, read by no rule at the word level (R6, R101) -/
  binRd : PerDir Bool
  /-- `BIN_WR(d)`: the byte transport's, read by no rule at the word level (R6, R101) -/
  binWr : PerDir Bool
  /-- `DELAY`: a pause that changes no state, read by no rule (R172, R312) -/
  delay : Nat
  deriving DecidableEq, Repr

/-- The mnemonic an opcode number stands for (R131). -/
def Config.opAt (cfg : Config) (o : BitVec 5) : Op := cfg.opcodes[o.toNat]'o.isLt

/-- `OPCODE(m)`: the number of a mnemonic (R131). -/
def Config.opcodeOf (cfg : Config) (op : Op) : BitVec 5 :=
  BitVec.ofNat 5 (cfg.opcodes.toList.idxOf op)

/-- The six fixed I/O addresses of R72. -/
def Config.fixedAddrs (cfg : Config) : List Addr :=
  [cfg.addrIo, cfg.addrData, cfg.addrStdio, cfg.addrStdin, cfg.addrStdout, cfg.addrTty]

/-- R72: six pairwise different addresses in the I/O range, none of which matches the port pattern. -/
def Config.addrsOk (cfg : Config) : Bool :=
  decide cfg.fixedAddrs.Nodup &&
  cfg.fixedAddrs.all fun x => x.getLsbD 8 && x.extractLsb' 0 4 != cfg.portPattern

/-- A mask of exactly one bit. -/
def isSingleBit (m : Word) : Bool := (List.range 18).any fun n => m == 1#18 <<< n

/-- R91: the eight status bits are eight different single-bit masks. -/
def Config.statusOk (cfg : Config) : Bool :=
  let masks := cfg.stRd.toList ++ cfg.stWr.toList
  masks.all isSingleBit && decide masks.Nodup

/-- U4, R131: 32 different mnemonics, all of them, so that `OPCODE` is a bijection. -/
def Config.bijectionOk (cfg : Config) : Bool :=
  decide cfg.opcodes.toList.Nodup && Op.all.all cfg.opcodes.toList.contains

/-- R142, R124, D2: `;` is opcode 0, `.` is a multiple of 4, no destination-taking mnemonic is. -/
def Config.slot4Ok (cfg : Config) : Bool :=
  cfg.opcodeOf .ret == 0 && (cfg.opcodeOf .nop).extractLsb' 0 2 == 0 &&
  Op.all.all fun op => !op.takesDest || (cfg.opcodeOf op).extractLsb' 0 2 != 0

/-- A configuration the spec admits; any other is refused (U4, U5). -/
def Config.ok (cfg : Config) : Bool :=
  cfg.addrsOk && cfg.statusOk && cfg.bijectionOk && cfg.slot4Ok

end Sys2Proof
end

