-- ==== Sys2Proof/WellFormed.lean ====
section
/-! DEFINITION. When an instruction can stand in a slot: its destination has the width of that slot
(spec/30_encoding.md R125), and slot 4 holds only opcodes whose low two bits are zero (R124, R301). -/

namespace Sys2Proof

/-- R125: a destination, where there is one, is the destination of that slot. -/
def Instr.destFits (i : Instr) (k : Slot) : Bool :=
  match i.dest with
  | none => true
  | some d => d.slot == k

/-- R124: an opcode in slot 4 has its low two bits zero. -/
def Instr.opcodeFits (cfg : Config) (i : Instr) (k : Slot) : Bool :=
  k != .four || (cfg.opcodeOf i.op).extractLsb' 0 2 == 0

/-- The instruction can be encoded in slot `k`. -/
def Instr.wf (cfg : Config) (k : Slot) (i : Instr) : Bool :=
  i.destFits k && i.opcodeFits cfg k

end Sys2Proof
end

