-- ==== Sys2Proof/Decode.lean ====
section
/-! DEFINITION. The spec's default parameters, the decoder and, after it, the encoder of one slot
(spec/30_encoding.md R120 to R133, R140 to R144; spec/00_scope.md R6). -/

namespace Sys2Proof

/-- R131: the mnemonic of each opcode number, 0x00 first.
PRESUMED (log 3): only `;` = 0 is the source's, the rest is the F18A's; unsafe. -/
def Config.defaultOpcodes : Vector Op 32 :=
  #v[.ret, .ex, .jump, .call, .unext, .next, .ifZero, .ifPlus,
     .fetchP, .fetchPlus, .fetchB, .fetchA, .storeP, .storePlus, .storeB, .storeA,
     .mulStep, .shl, .shr, .inv, .add, .and, .xor, .drop,
     .dup, .pop, .over, .readA, .nop, .push, .setB, .setA]

/-- The default of every parameter (R6). PRESUMED (log 3, log 4): the F18A's numbers; unsafe.
DESIGN CHOICE (log 6): `BIN_RD`, `BIN_WR` and `DELAY`, which no rule reads. -/
def Config.default : Config where
  imask := 0x15555#18
  opcodes := Config.defaultOpcodes
  portPattern := 0b0101#4
  addrIo := 0x15D#9
  addrData := 0x141#9
  addrStdio := 0x100#9
  addrStdin := 0x101#9
  addrStdout := 0x102#9
  addrTty := 0x103#9
  stRd := ⟨0x10000#18, 0x04000#18, 0x01000#18, 0x00400#18⟩
  stWr := ⟨0x08000#18, 0x02000#18, 0x00800#18, 0x00200#18⟩
  binRd := ⟨false, false, false, false⟩
  binWr := ⟨false, false, false, false⟩
  delay := 0

/-- Why a slot of a word has no instruction. -/
inductive DecodeError where
  /-- a destination-taking opcode in slot 4: only under a configuration that breaks R142 -/
  | destinationInSlot4
  deriving DecidableEq, Repr

/-- R122: `D = W XOR IMASK`, the view the opcodes are read from. -/
def unmask (cfg : Config) (W : Word) : Word := W ^^^ cfg.imask

/-- R123: the five opcode bits of a slot of the decoded word; slot 4 has three and two zeros. -/
def slotBits (D : Word) : Slot → BitVec 5
  | .one => D.extractLsb' 13 5
  | .two => D.extractLsb' 8 5
  | .three => D.extractLsb' 3 5
  | .four => (D.extractLsb' 0 3).setWidth 5 <<< 2

/-- R123: `Opcode(W, k)`. -/
def opcode (cfg : Config) (W : Word) (k : Slot) : BitVec 5 := slotBits (unmask cfg W) k

/-- R125: `Dest(W, k)`, from the raw word. -/
def destField (W : Word) : Slot → Except DecodeError Dest
  | .one => .ok (.slot1 (W.extractLsb' 0 10))
  | .two => .ok (.slot2 (W.extractLsb' 0 8))
  | .three => .ok (.slot3 (W.extractLsb' 0 3))
  | .four => .error .destinationInSlot4

/-- An instruction that carries the destination of its slot. -/
def withDest (W : Word) (k : Slot) (f : Dest → Instr) : Except DecodeError Instr :=
  match destField W k with
  | .ok d => .ok (f d)
  | .error e => .error e

/-- The instruction in slot `k` of the raw word `W`: every word decodes (R140). -/
def decode (cfg : Config) (W : Word) (k : Slot) : Except DecodeError Instr :=
  match cfg.opAt (opcode cfg W k) with
  | .ret => .ok .ret
  | .ex => .ok .ex
  | .jump => withDest W k .jump
  | .call => withDest W k .call
  | .unext => .ok .unext
  | .next => withDest W k .next
  | .ifZero => withDest W k .ifZero
  | .ifPlus => withDest W k .ifPlus
  | .fetchP => .ok .fetchP
  | .fetchPlus => .ok .fetchPlus
  | .fetchB => .ok .fetchB
  | .fetchA => .ok .fetchA
  | .storeP => .ok .storeP
  | .storePlus => .ok .storePlus
  | .storeB => .ok .storeB
  | .storeA => .ok .storeA
  | .mulStep => .ok .mulStep
  | .shl => .ok .shl
  | .shr => .ok .shr
  | .inv => .ok .inv
  | .add => .ok .add
  | .and => .ok .and
  | .xor => .ok .xor
  | .drop => .ok .drop
  | .dup => .ok .dup
  | .pop => .ok .pop
  | .over => .ok .over
  | .readA => .ok .readA
  | .nop => .ok .nop
  | .push => .ok .push
  | .setB => .ok .setB
  | .setA => .ok .setA

/-- The instruction the decoder reads from a row of the opcode table, whose patterns are those of slot 1
(R132). DESIGN CHOICE (log 35): bits above the 18 of a word make it no word; safe. -/
def decodeTableWord (_nbits w : Nat) : Option Instr :=
  if w < 2 ^ 18 then
    match decode Config.default (BitVec.ofNat 18 w) .one with
    | .ok i => some i
    | .error _ => none
  else none

/-- Overwrite the `n` bits of `W` from bit `lo` up with `v`. -/
def putField (W : Word) (lo n : Nat) (v : BitVec n) : Word :=
  (W &&& ~~~((BitVec.allOnes n).setWidth 18 <<< lo)) ||| (v.setWidth 18 <<< lo)

/-- Overwrite the opcode bits of a slot of a decoded word (R121, R123). -/
def putSlot (D : Word) (k : Slot) (o : BitVec 5) : Word :=
  match k with
  | .one => putField D 13 5 o
  | .two => putField D 8 5 o
  | .three => putField D 3 5 o
  | .four => putField D 0 3 (o.extractLsb' 2 3)

/-- Overwrite the destination bits of a raw word (R121, R125). -/
def putDest (W : Word) : Dest → Word
  | .slot1 d => putField W 0 10 d
  | .slot2 d => putField W 0 8 d
  | .slot3 d => putField W 0 3 d

/-- Write instruction `i` into slot `k` of the raw word `W`, the bits it does not use left as they are:
the opcode goes through `IMASK`, the destination does not (R122). -/
def encodeInto (cfg : Config) (k : Slot) (i : Instr) (W : Word) : Word :=
  let V := unmask cfg (putSlot (unmask cfg W) k (cfg.opcodeOf i.op))
  match i.dest with
  | none => V
  | some d => putDest V d

/-- The word of a well-formed instruction in slot `k`. DESIGN CHOICE (log 41): the bits that neither its
opcode nor its destination uses are zero; no rule reads them (U18); safe. -/
def encode (cfg : Config) (k : Slot) (i : Instr) : Word := encodeInto cfg k i 0#18

end Sys2Proof
end

