-- ==== Sys2Proof/Machine/Params.lean ====
section
/-! DEFINITION. All the parameters of spec/00_scope.md R6 as one record, the argument a node is launched
from (`State.launch` in State.lean): the values a step reads (`Config`), and those that only fix what a
node starts with: `ROM_IMAGE`, `RESET`, `PRESENT` (spec/10_state.md R47; spec/70_reset_and_hazards.md R290
to R292). The fixed rows of R6 are the types: widths, stack depths, 64 cells of ROM. -/

namespace Sys2Proof.Machine

/-! ## The shapes of a memory and of a stack -/

/-- A memory: (cell number, 18-bit word) pairs, cell numbers strictly rising, no entry equal to what an
unlisted cell reads as (`Memory.wf`). The smallest addressable unit is a word (R60, R66; log 15). -/
abbrev Memory := List (Nat × Word)

/-- The eight cells of a circular stack (R29). -/
abbrev Cells := Vector Word 8

/-- What an unlisted cell reads as: RAM is zero at reset (R47); for ROM a zero word is not listed. -/
def Memory.unlisted : Word := 0#18

/-- A cell put before the others, unless it holds what an unlisted one reads as. -/
def Memory.cons (n : Nat) (v : Word) (m : Memory) : Memory :=
  if v = Memory.unlisted then m else (n, v) :: m

/-- The memory whose cells from number `n` up hold the words of a list. -/
def Memory.ofWords (n : Nat) : List Word → Memory
  | [] => []
  | w :: ws => Memory.cons n w (Memory.ofWords (n + 1) ws)

/-! ## The parameters -/

/-- `RESET`: the values the source leaves open at launch (R6, R47). -/
structure ResetValues where
  t : Word
  s : Word
  r : Word
  a : Word
  b : BitVec 9
  i : Word
  /-- the entry point in bits 8:0, the carry mode in bit 9 (R292) -/
  p : BitVec 10
  c : Bool
  ds : Cells
  sp : BitVec 3
  rs : Cells
  rp : BitVec 3
  deriving DecidableEq, Repr

/-- `PRESENT(ch)`: which of the four neighbours and three host channels a node has (R6, R44). -/
structure Presence where
  links : PerDir Bool
  stdin : Bool
  stdout : Bool
  tty : Bool
  deriving DecidableEq, Repr

/-- The configuration record of R6. `WORD`, `B_WIDTH`, `P_WIDTH`, `DS_DEPTH`, `RS_DEPTH` and `ROM_WORDS`
are the types of its fields. -/
structure Params where
  /-- the parameters a step reads, and `BIN_RD`, `BIN_WR`, `DELAY`, which no rule reads -/
  cfg : Config
  /-- `ROM_IMAGE`, cell 0 first -/
  romImage : Vector Word 64
  /-- `RESET` -/
  reset : ResetValues
  /-- `PRESENT` -/
  present : Presence
  deriving DecidableEq, Repr

/-- The spec's default for simulation: zero everywhere (R47, D19). DESIGN CHOICE (log 1); unsafe. -/
def ResetValues.zero : ResetValues where
  t := 0
  s := 0
  r := 0
  a := 0
  b := 0
  i := 0
  p := 0
  c := false
  ds := Vector.replicate 8 0
  sp := 0
  rs := Vector.replicate 8 0
  rp := 0

/-- Every channel there. DESIGN CHOICE (log 6); unsafe. -/
def Presence.all : Presence := ⟨⟨true, true, true, true⟩, true, true, true⟩

/-- The parameters `State.reset` is launched from: the defaults of R6 where it gives one.
DESIGN CHOICE (log 2): a zero ROM; (log 6): every channel present. Both unsafe. -/
def Params.default : Params where
  cfg := Config.default
  romImage := Vector.replicate 64 0
  reset := .zero
  present := .all

end Sys2Proof.Machine
end

