-- ==== Sys2Proof/Machine/State.lean ====
section
/-! DEFINITION. The state of a node as plain data (spec/10_state.md), the environment at its word-level
boundary (spec/20_memory.md R80, R81), the reasons a step stops, and the launch of a node from its
parameters, of which the state after reset is one (spec/10_state.md R47). -/

namespace Sys2Proof.Machine

/-- What `Recv` answers on a channel of `w`-bit items (R80). -/
inductive Answer (w : Nat) where
  /-- the next item -/
  | word (v : BitVec w)
  /-- end of stream -/
  | eos
  /-- transport failure -/
  | err
  deriving DecidableEq, Repr

/-- A neighbour link as the node sees it (R80, R81; log 7, log 12). -/
structure Link where
  /-- the answers that can be received now, oldest first; `RdReady` is "not empty" -/
  rx : List (Answer 18)
  /-- `WrReady`: an input the model does not constrain (D15; log 32) -/
  wrReady : Bool
  /-- whether `Send` answers `err` now -/
  sendErr : Bool
  /-- the words sent, oldest first -/
  tx : List Word
  deriving DecidableEq, Repr

/-- The process-stdin channel: it supports `RdReady` and `Recv` (R83). -/
structure HostIn where
  rx : List (Answer 18)
  deriving DecidableEq, Repr

/-- The process-stdout channel: it supports `Send` (R83). -/
structure HostOut where
  sendErr : Bool
  tx : List Word
  deriving DecidableEq, Repr

/-- The console: characters in both directions (R83, R98). -/
structure Console where
  rx : List (Answer 8)
  sendErr : Bool
  tx : List (BitVec 8)
  deriving DecidableEq, Repr

/-- The environment of a node: its channels; an absent one is `none` (R44, R76). -/
structure Env where
  links : PerDir (Option Link)
  stdin : Option HostIn
  stdout : Option HostOut
  tty : Option Console
  deriving DecidableEq, Repr

/-- The names of the seven channels (R17). -/
inductive Chan where
  | link (d : Dir)
  | stdin
  | stdout
  | tty
  deriving DecidableEq, Repr

/-- The diagnostics a step can record (R262 a, b, d). -/
inductive Diag where
  /-- an I/O access that selects no channel -/
  | unmapped
  /-- a transport failure, or the end of stream of a neighbour link -/
  | channelError (ch : Chan)
  /-- a store to a ROM address -/
  | romWrite
  deriving DecidableEq, Repr

/-- The slot sequencer `k`: `fetch` is 0, `slot` one to four are 1 to 4 (R41). -/
inductive Phase where
  | fetch
  | slot (n : Slot)
  deriving DecidableEq, Repr

/-- Everything a node holds between two steps (R20), its configuration, its environment, and the log of
diagnostics, which is the model's own field (R262; log 13). -/
structure State where
  /-- the parameters of R6 that a step reads, fixed for the node's life (log 5) -/
  cfg : Config
  /-- top of the data stack (R21) -/
  t : Word
  /-- second of the data stack (R22) -/
  s : Word
  /-- top of the return stack (R23) -/
  r : Word
  /-- address register (R24) -/
  a : Word
  /-- alternate address register (R25) -/
  b : BitVec 9
  /-- raw fetched instruction word (R26) -/
  i : Word
  /-- program counter; bit 9 is P9 (R27, R39) -/
  p : BitVec 10
  /-- carry flag (R28) -/
  c : Bool
  /-- data stack cells (R29) -/
  ds : Cells
  /-- data stack pointer (R29) -/
  sp : BitVec 3
  /-- return stack cells (R29) -/
  rs : Cells
  /-- return stack pointer (R29) -/
  rp : BitVec 3
  /-- mutable store, by cell number 0 to 63 (R35) -/
  ram : Memory
  /-- immutable store, by cell number 0 to 63 (R36) -/
  rom : Memory
  /-- slot sequencer (R41) -/
  k : Phase
  /-- termination flag (R42) -/
  halt : Bool
  /-- the channels (R80) -/
  env : Env
  /-- diagnostics recorded, newest first (log 13) -/
  diags : List Diag
  deriving DecidableEq, Repr

/-- The reasons a step stops. Only `step` raises one; no instruction's meaning does. -/
inductive Fault where
  /-- raised by the fetch step of a node whose `halt` is 1: the node's run has ended and it has no step
  (R175; log 9). Safe: nothing is claimed of such a node. -/
  | stopped
  deriving DecidableEq, Repr

/-- The reasons an instruction has no meaning. -/
inductive Refusal where
  /-- raised by an arm of `exec` for an instruction without a meaning: none is left. Safe. -/
  | notModelled (mnemonic : String)
  /-- raised by `step` on a configuration that breaks R72, R91, R131 or R142, which the spec says a model
  refuses (U4, U5; log 5). Safe. -/
  | badConfig
  /-- raised by `step` on a destination-taking opcode in slot 4, which no admitted configuration allows
  (R142; log 40). Safe. -/
  | destinationInSlot4
  deriving DecidableEq, Repr

/-- A neighbour link that is there, with nothing on it. -/
def Link.idle : Link := ⟨[], false, false, []⟩

/-- `PRESENT(ch)` (R6). -/
def Presence.has (x : Presence) : Chan → Bool
  | .link d => x.links.get d
  | .stdin => x.stdin
  | .stdout => x.stdout
  | .tty => x.tty

/-- The environment at launch: the channels that are present. DESIGN CHOICE (log 6): there is nothing to
receive, no link is write-ready, no send fails, nothing was sent; unsafe. -/
def Env.launch (x : Presence) : Env where
  links := ⟨if x.links.right then some .idle else none, if x.links.down then some .idle else none,
    if x.links.left then some .idle else none, if x.links.up then some .idle else none⟩
  stdin := if x.stdin then some ⟨[]⟩ else none
  stdout := if x.stdout then some ⟨false, []⟩ else none
  tty := if x.tty then some ⟨[], false, []⟩ else none

/-- The environment at launch with every channel present. -/
def Env.idle : Env := .launch .all

/-- A node at its launch, for every choice of the parameters of R6 (R47, R290, R291): zeroed RAM, the ROM
image, the channels and configuration as given, the unspecified rows from `RESET`, `k` = 0, `halt` = 0. -/
def State.launch (x : Params) : State where
  cfg := x.cfg
  t := x.reset.t
  s := x.reset.s
  r := x.reset.r
  a := x.reset.a
  b := x.reset.b
  i := x.reset.i
  p := x.reset.p
  c := x.reset.c
  ds := x.reset.ds
  sp := x.reset.sp
  rs := x.reset.rs
  rp := x.reset.rp
  ram := []
  rom := Memory.ofWords 0 x.romImage.toList
  k := .fetch
  halt := false
  env := .launch x.present
  diags := []

/-- The machine after reset (R47), launched from the default parameters. The spec states: RAM zero, `k` = 0,
`halt` = 0. DESIGN CHOICE (log 1): the registers, stacks and pointers are zero, the spec's default for
simulation (D19). DESIGN CHOICE (log 2): ROM is zero. Both unsafe. -/
def State.reset : State := .launch .default

end Sys2Proof.Machine
end

