-- ==== Sys2Proof/Machine/Ops.lean ====
section
/-! DEFINITION. The named operations over memory, stacks, the slot sequencer, the channels and the router
(spec/10_state.md R29 to R36; spec/20_memory.md R60 to R79, R90 to R98; spec/40_control.md R172, R178).
The machine raises no exception (spec/60_exceptions.md R260, R265): in the place of taking one stands
`State.diag`, which records a diagnostic and changes nothing else (R262). -/

namespace Sys2Proof.Machine

/-! ## Cells of a memory -/

/-- Read a cell. -/
def Memory.read : Memory → Nat → Word
  | [], _ => Memory.unlisted
  | (x, w) :: rest, n => if x = n then w else Memory.read rest n

/-- Write a cell, keeping the canonical form. -/
def Memory.write : Memory → Nat → Word → Memory
  | [], n, v => Memory.cons n v []
  | (x, w) :: rest, n, v =>
    if n < x then Memory.cons n v ((x, w) :: rest)
    else if n = x then Memory.cons n v rest
    else (x, w) :: Memory.write rest n v

/-- The canonical form: cell numbers strictly rising and below 64, no entry that an unlisted cell
would read as. -/
abbrev Memory.wf (m : Memory) : Prop :=
  (m.map Prod.fst).Pairwise (· < ·) ∧ ∀ e ∈ m, e.1 < 64 ∧ e.2 ≠ Memory.unlisted

/-! ## The circular stacks -/

/-- The stack cell a pointer names (R29). -/
def Cells.get (x : Cells) (n : BitVec 3) : Word := x[n.toNat]'n.isLt

/-- Overwrite the stack cell a pointer names (R29). -/
def Cells.set (x : Cells) (n : BitVec 3) (v : Word) : Cells := Vector.set x n.toNat v n.isLt

/-- `dpush(v)` (R30). -/
def State.dpush (v : Word) (s : State) : State :=
  { s with ds := s.ds.set s.sp s.s, sp := s.sp + 1, s := s.t, t := v }

/-- `dpop()` (R31): its result, the old `t`, is read by the caller before. -/
def State.dpop (s : State) : State :=
  { s with t := s.s, sp := s.sp - 1, s := s.ds.get (s.sp - 1) }

/-- `rpush(v)` (R32). -/
def State.rpush (v : Word) (s : State) : State :=
  { s with rs := s.rs.set s.rp s.r, rp := s.rp + 1, r := v }

/-- `rpop()` (R33): its result, the old `r`, is read by the caller before. -/
def State.rpop (s : State) : State :=
  { s with rp := s.rp - 1, r := s.rs.get (s.rp - 1) }

/-! ## The slot sequencer -/

/-- The phase after a slot: the next slot, or a fetch after slot 4 (R172, `Next`).
DESIGN CHOICE (log 33): from `fetch`, where no slot runs, `Next(0)` = 1 by the same formula; safe. -/
def Phase.next : Phase → Phase
  | .fetch => .slot .one
  | .slot .one => .slot .two
  | .slot .two => .slot .three
  | .slot .three => .slot .four
  | .slot .four => .fetch

/-- `k <- Next(k)` (R172). -/
def State.advance (s : State) : State := { s with k := s.k.next }

/-- `k <- 0`: the word ends and the next step is a fetch (R133, R179). -/
def State.endWord (s : State) : State := { s with k := .fetch }

/-- The address a destination loads into `p` (R178).
DESIGN CHOICE (log 23, the spec's D21): a short destination is zero-extended over all of `p`; unsafe. -/
def destTarget : Dest → BitVec 10
  | .slot1 d => d
  | .slot2 d => d.setWidth 10
  | .slot3 d => d.setWidth 10

/-- `Branch(k)` (R178): load `p` and end the word. -/
def State.branch (d : Dest) (s : State) : State := { s with p := destTarget d, k := .fetch }

/-! ## Diagnostics and the termination flag -/

/-- `diag(x)` (R13, R262). -/
def State.diag (d : Diag) (s : State) : State := { s with diags := d :: s.diags }

/-- `halt <- 1` (R97). -/
def State.setHalt (s : State) : State := { s with halt := true }

/-! ## Channels -/

/-- An answer of the console, its character zero-extended (R98). -/
def Answer.widen : Answer 8 → Answer 18
  | .word v => .word (v.setWidth 18)
  | .eos => .eos
  | .err => .err

/-- The neighbour link in a direction, `none` when absent. -/
def State.link (s : State) (d : Dir) : Option Link := s.env.links.get d

/-- Replace the neighbour link in a direction. -/
def State.setLink (d : Dir) (l : Link) (s : State) : State :=
  { s with env := { s.env with links := s.env.links.set d (some l) } }

/-- `PRESENT(ch)` (R6, R44). -/
def State.present (s : State) : Chan → Bool
  | .link d => (s.link d).isSome
  | .stdin => s.env.stdin.isSome
  | .stdout => s.env.stdout.isSome
  | .tty => s.env.tty.isSome

/-- The answers that can be received from a channel now, oldest first. -/
def State.pending (s : State) : Chan → List (Answer 18)
  | .link d => match s.link d with | some l => l.rx | none => []
  | .stdin => match s.env.stdin with | some x => x.rx | none => []
  | .stdout => []
  | .tty => match s.env.tty with | some x => x.rx.map Answer.widen | none => []

/-- `RdReady(ch)` (R80, R81; log 7): something can be received now. -/
def State.rdReady (s : State) (ch : Chan) : Bool := !(s.pending ch).isEmpty

/-- `WrReady` of a neighbour link (R80, R81; log 32); an absent one is not ready. -/
def State.wrReady (s : State) (d : Dir) : Bool :=
  match s.link d with
  | some l => l.wrReady
  | none => false

/-- Take the oldest answer off a channel, the state change of `Recv` (R80; log 11). -/
def State.takeAnswer (ch : Chan) (s : State) : State :=
  match ch with
  | .link d =>
    match s.link d with
    | some l => s.setLink d { l with rx := l.rx.tail }
    | none => s
  | .stdin => { s with env := { s.env with stdin := s.env.stdin.map fun x => { x with rx := x.rx.tail } } }
  | .stdout => s
  | .tty => { s with env := { s.env with tty := s.env.tty.map fun x => { x with rx := x.rx.tail } } }

/-- `Send(ch, v)` (R80, R93): the word leaves the node, or the failure is recorded and the word dropped.
The console sends the character `v[7:0]` (R98; DESIGN CHOICE log 22, the spec's D18; unsafe). -/
def State.send (ch : Chan) (v : Word) (s : State) : State :=
  match ch with
  | .link d =>
    match s.link d with
    | some l => if l.sendErr then s.diag (.channelError ch) else s.setLink d { l with tx := l.tx ++ [v] }
    | none => s
  | .stdin => s
  | .stdout =>
    match s.env.stdout with
    | some x =>
      if x.sendErr then s.diag (.channelError ch)
      else { s with env := { s.env with stdout := some { x with tx := x.tx ++ [v] } } }
    | none => s
  | .tty =>
    match s.env.tty with
    | some x =>
      if x.sendErr then s.diag (.channelError ch)
      else { s with env := { s.env with tty := some { x with tx := x.tx ++ [v.setWidth 8] } } }
    | none => s

/-! ## The port selector and the status encoder -/

/-- The direction of a transfer (R74). -/
inductive Xfer where
  | read | write
  deriving DecidableEq, Repr

/-- Whether the direction bits of a port address select a neighbour (R75): bit 7 set for right, bit 6
clear for down, bit 5 set for left, bit 4 clear for up. -/
def dirSelected (addr : Addr) : Dir → Bool
  | .right => addr.getLsbD 7
  | .down => !addr.getLsbD 6
  | .left => addr.getLsbD 5
  | .up => !addr.getLsbD 4

/-- The status bit of a direction for a transfer (R77). -/
def statusBit (cfg : Config) (x : Xfer) (d : Dir) : Word :=
  match x with
  | .read => cfg.stRd.get d
  | .write => cfg.stWr.get d

/-- A host channel, selected when it is there; it carries no status bit (R74, R77). -/
def State.hostChan (s : State) (ch : Chan) : List (Chan × Word) :=
  if s.present ch then [(ch, 0#18)] else []

/-- The neighbours a port address selects, in the order right, down, left, up, absent ones left out
(R74 to R76). DESIGN CHOICE (log 30, the spec's D9): "bits {0,3}" are the four bits 3:0; unsafe. -/
def State.selectPort (s : State) (addr : Addr) (x : Xfer) : List (Chan × Word) :=
  if addr.extractLsb' 0 4 = s.cfg.portPattern then
    (Dir.all.filter fun d => dirSelected addr d && s.present (.link d)).map
      fun d => (.link d, statusBit s.cfg x d)
  else []

/-- `Select(addr, dir)` (R74). -/
def State.select (s : State) (addr : Addr) (x : Xfer) : List (Chan × Word) :=
  if addr = s.cfg.addrStdin then (if x = .read then s.hostChan .stdin else [])
  else if addr = s.cfg.addrStdout then (if x = .write then s.hostChan .stdout else [])
  else if addr = s.cfg.addrStdio then (if x = .read then s.hostChan .stdin else s.hostChan .stdout)
  else if addr = s.cfg.addrTty then s.hostChan .tty
  else if addr = s.cfg.addrIo ∨ addr = s.cfg.addrData then []
  else s.selectPort addr x

/-- The status bits of one direction that are set now (R90). -/
def State.dirStatus (s : State) (d : Dir) : Word :=
  (if s.rdReady (.link d) then s.cfg.stRd.get d else 0#18) |||
  (if s.wrReady d then s.cfg.stWr.get d else 0#18)

/-- `Status()` (R90): an absent neighbour is not ready and contributes nothing. -/
def State.status (s : State) : Word :=
  Dir.all.foldl (fun v d => v ||| s.dirStatus d) 0#18

/-! ## I/O register operations -/

/-- What a read of a channel yields, given `Recv`'s answer (R94, R96, R97). -/
def State.settle (ch : Chan) (x : Answer 18) (s : State) : Word × State :=
  match x with
  | .word v => (v, s)
  | .eos => if ch = .stdin ∨ ch = .tty then (0#18, s.setHalt) else (0#18, s.diag (.channelError ch))
  | .err => (0#18, s.diag (.channelError ch))

/-- Service the first ready channel of a selection (R94, R95); `none`: none is ready, the node is held. -/
def State.service (s : State) : List (Chan × Word) → Option (Word × State)
  | [] => none
  | (ch, _) :: rest =>
    match s.pending ch with
    | x :: _ => some ((s.takeAnswer ch).settle ch x)
    | [] => s.service rest

/-- `IoRead(addr)` (R94); `none`: the node is held. -/
def State.ioRead (addr : Addr) (s : State) : Option (Word × State) :=
  if addr = s.cfg.addrIo then some (s.status, s)
  else
    match s.select addr .read with
    | [] => some (0#18, s.diag .unmapped)
    | chans => s.service chans

/-- `IoWrite(addr, v)` (R93): it never holds the node. -/
def State.ioWrite (addr : Addr) (v : Word) (s : State) : State :=
  match s.select addr .write with
  | [] => s.diag .unmapped
  | chans => chans.foldl (fun s e => s.send e.1 v) s

/-! ## The router -/

/-- The three regions of the address space (R61). -/
inductive Region where
  | ram | rom | io
  deriving DecidableEq, Repr

/-- `Region(addr)` (R61). -/
def region (addr : Addr) : Region :=
  if addr.getLsbD 8 then .io else if addr.getLsbD 7 then .rom else .ram

/-- The cell of its memory an address names: its low six bits, so that both banks of a region are the same
64 cells (R35, R36, R64). -/
def cell (addr : Addr) : Nat := (addr.extractLsb' 0 6).toNat

/-- `MemRead(addr)` (R62); `none`: the node is held. -/
def State.memRead (addr : Addr) (s : State) : Option (Word × State) :=
  match region addr with
  | .ram => some (s.ram.read (cell addr), s)
  | .rom => some (s.rom.read (cell addr), s)
  | .io => s.ioRead addr

/-- `MemWrite(addr, v)` (R63): a ROM address is not written and the attempt is recorded. -/
def State.memWrite (addr : Addr) (v : Word) (s : State) : State :=
  match region addr with
  | .ram => { s with ram := s.ram.write (cell addr) v }
  | .rom => s.diag .romWrite
  | .io => s.ioWrite addr v

/-- `Inc7(x)` (R67): in-bank auto-increment. An I/O address stays as it is
(DESIGN CHOICE log 17, the spec's D7; unsafe). -/
def inc7 {w : Nat} (x : BitVec w) : BitVec w :=
  if x.getLsbD 8 then x
  else (x &&& ~~~BitVec.ofNat w 0x7F) ||| ((x + 1) &&& BitVec.ofNat w 0x7F)

end Sys2Proof.Machine
end

