-- ==== Sys2Proof/Machine/Operands.lean ====
section
/-! DEFINITION. The operand forms of the instructions: the three addresses a memory access uses, the two
auto-increments, and the shapes of a fetch, a store, a unary and a binary operation
(spec/43_memory_access.md R249; spec/41_alu.md R209). -/

namespace Sys2Proof.Machine

/-- The address `p[8:0]` (R60). -/
def State.addrP (s : State) : Addr := s.p.setWidth 9

/-- The address `a[8:0]` (R61). DESIGN CHOICE (log 16, the spec's D6): `a[17:9]` is ignored; unsafe. -/
def State.addrA (s : State) : Addr := s.a.setWidth 9

/-- The address `b` (R60). -/
def State.addrB (s : State) : Addr := s.b

/-- `p <- Inc7(p)` (R68). -/
def State.bumpP (s : State) : State := { s with p := inc7 s.p }

/-- `a <- Inc7(a)` (R68). -/
def State.bumpA (s : State) : State := { s with a := inc7 s.a }

/-- Read a word and go on with it; while no selected channel is ready the node is held and its state stays
as it is (R94, R173). DESIGN CHOICE (log 8): a held node's step answers that same state; safe. -/
def State.readThen (s : State) (addr : Addr) (f : Word → State → State) :
    Host.Outcome State Fault Refusal :=
  match s.memRead addr with
  | none => .next s
  | some (v, s') => .next (f v s')

/-- A fetch (R249): read, update the address register, push, go to the next slot. -/
def State.fetchVia (s : State) (addr : Addr) (bump : State → State) :
    Host.Outcome State Fault Refusal :=
  s.readThen addr fun v s' => ((bump s').dpush v).advance

/-- A store (R249): write `t`, update the address register, pop, go to the next slot. A store to ROM
still pops and increments (DESIGN CHOICE log 19, the spec's D16; unsafe). -/
def State.storeVia (s : State) (addr : Addr) (bump : State → State) :
    Host.Outcome State Fault Refusal :=
  .next (bump (s.memWrite addr s.t)).dpop.advance

/-- A unary operation changes `t` only (R209). -/
def State.unary (s : State) (f : Word → Word) : Host.Outcome State Fault Refusal :=
  .next { s with t := f s.t }.advance

/-- `binary(f)` (R209): both operands are read, the stack is popped once, the result replaces the top. -/
def State.binary (s : State) (f : Word → Word → Word) : Host.Outcome State Fault Refusal :=
  .next { s.dpop with t := f s.t s.s }.advance

end Sys2Proof.Machine
end

