-- ==== Sys2Proof/Machine/Flags.lean ====
section
/-! DEFINITION. The two flags, P9 and the carry, and the exact sums they come from
(spec/10_state.md R37 to R39; spec/41_alu.md R207, R208). -/

namespace Sys2Proof.Machine

/-- P9, bit 9 of `p` (R39): it enables carry in `+` and `+*`. -/
def State.p9 (s : State) : Bool := s.p.getLsbD 9

/-- The carry that enters a sum: `c` while P9 is set, else nothing (R204, R208). -/
def State.carryIn (s : State) : Int := if s.p9 ∧ s.c then 1 else 0

/-- The exact sum of `t`, `s` and the carry that enters (R208). -/
def State.exactSum (s : State) : Int := signed s.t + signed s.s + s.carryIn

/-- Bit 18 of the two's-complement form of an integer, `floor(x / 2^18) mod 2` (R208).
DESIGN CHOICE (log 26, the spec's D24): the carry is this bit of the exact signed sum; unsafe. -/
def bit18 (x : Int) : Bool := x / 2 ^ 18 % 2 = 1

/-- The carry after a sum: written only while P9 is set (R38). -/
def State.carryAfter (s : State) (sum : Int) : Bool := if s.p9 then bit18 sum else s.c

/-- An integer reduced to a word (R207). -/
def wrap (x : Int) : Word := BitVec.ofInt 18 x

end Sys2Proof.Machine
end

