-- ==== Sys2Proof/Machine/Alu.lean ====
section
/-! DEFINITION. The ALU instructions `+*` `2*` `2/` `-` `+` `and` `or` (spec/41_alu.md R200 to R206). -/

namespace Sys2Proof.Machine

/-- The pre-shift sum of `+*` (R200): the exact sum when `a[0]` is set, else `t`. -/
def State.mulSum (s : State) : Int := if s.a.getLsbD 0 then s.exactSum else signed s.t

/-- `+*` (R200). DESIGN CHOICE (log 27, the spec's D25): the exact sum is shifted before it is reduced to
18 bits, and `c` is left alone when `a[0]` is 0; unsafe. -/
def execMulStep (s : State) : Host.Outcome State Fault Refusal :=
  .next { s with
    c := if s.a.getLsbD 0 then s.carryAfter s.mulSum else s.c
    a := (s.a >>> 1) ||| (wrap (s.mulSum % 2) <<< 17)
    t := wrap (s.mulSum / 2) }.advance

/-- `2*` (R201). -/
def execShl (s : State) : Host.Outcome State Fault Refusal := s.unary (· <<< 1)

/-- `2/` (R202), by its formula. -/
def execShr (s : State) : Host.Outcome State Fault Refusal :=
  s.unary fun t => (t >>> 1) ||| (t &&& signBit)

/-- `-`, bitwise complement (R203). -/
def execInv (s : State) : Host.Outcome State Fault Refusal := s.unary (~~~·)

/-- `+` (R204). -/
def execAdd (s : State) : Host.Outcome State Fault Refusal :=
  .next { s.dpop with t := wrap s.exactSum, c := s.carryAfter s.exactSum }.advance

/-- `and` (R205). -/
def execAnd (s : State) : Host.Outcome State Fault Refusal := s.binary (· &&& ·)

/-- `or`, which is exclusive or (R206). -/
def execXor (s : State) : Host.Outcome State Fault Refusal := s.binary (· ^^^ ·)

end Sys2Proof.Machine
end

