-- ==== Sys2Proof/Machine/Control.lean ====
section
/-! DEFINITION. The fetch step and the control transfers `;` `ex` `jump` `call` `unext` `next` `if` `-if`
(spec/40_control.md R170 to R190). -/

namespace Sys2Proof.Machine

/-- The fetch step (R171). A node whose `halt` is already 1 makes no read and has stopped
(DESIGN CHOICE log 18, the spec's D8; unsafe); a word whose read set `halt` is not executed. -/
def fetchStep (s : State) : Host.Outcome State Fault Refusal :=
  if s.halt then .fault .stopped
  else s.readThen s.addrP fun w s' =>
    { s'.bumpP with i := w, k := if s'.halt then .fetch else .slot .one }

/-- `;` (R183): bit 9 of `r` becomes P9. -/
def execRet (s : State) : Host.Outcome State Fault Refusal :=
  .next { s.rpop with p := s.r.setWidth 10 }.endWord

/-- `ex` (R184). DESIGN CHOICE (log 28, the spec's D27): it ends the word; unsafe. -/
def execEx (s : State) : Host.Outcome State Fault Refusal :=
  .next { s with r := s.p.setWidth 18, p := s.r.setWidth 10 }.endWord

/-- `jump` (R180). -/
def execJump (d : Dest) (s : State) : Host.Outcome State Fault Refusal := .next (s.branch d)

/-- `call` (R181): the pushed address carries P9 in bit 9. -/
def execCall (d : Dest) (s : State) : Host.Outcome State Fault Refusal :=
  .next ((s.rpush (s.p.setWidth 18)).branch d)

/-- `unext` (R185). PRESUMED (log 24, the spec's D22): it takes no destination, loops by restarting the
latched word at slot 1, and falls through to the next slot; unsafe. -/
def execUnext (s : State) : Host.Outcome State Fault Refusal :=
  if s.r = 0 then .next s.rpop.advance
  else .next { s with r := s.r - 1, k := .slot .one }

/-- `next` (R182). -/
def execNext (d : Dest) (s : State) : Host.Outcome State Fault Refusal :=
  if s.r = 0 then .next s.rpop.endWord
  else .next ({ s with r := s.r - 1 }.branch d)

/-- `if` (R186). DESIGN CHOICE (log 25, the spec's D23): `t` is kept; unsafe. -/
def execIfZero (d : Dest) (s : State) : Host.Outcome State Fault Refusal :=
  if s.t = 0 then .next (s.branch d) else .next s.endWord

/-- `-if` (R187): branch when the signed value of `t` is not negative; `t` is kept (log 25). -/
def execIfPlus (d : Dest) (s : State) : Host.Outcome State Fault Refusal :=
  if 0 ≤ signed s.t then .next (s.branch d) else .next s.endWord

end Sys2Proof.Machine
end

