-- ==== Sys2Proof/Machine/MemoryAccess.lean ====
section
/-! DEFINITION. The memory instructions `@p` `@+` `@b` `@` `!p` `!+` `!b` `!`
(spec/43_memory_access.md R240 to R249). PRESUMED (log 29, the spec's D2): the set of eight; unsafe. -/

namespace Sys2Proof.Machine

/-- `@p` (R240). -/
def execFetchP (s : State) : Host.Outcome State Fault Refusal := s.fetchVia s.addrP State.bumpP

/-- `@+` (R241). -/
def execFetchPlus (s : State) : Host.Outcome State Fault Refusal := s.fetchVia s.addrA State.bumpA

/-- `@b` (R242). -/
def execFetchB (s : State) : Host.Outcome State Fault Refusal := s.fetchVia s.addrB id

/-- `@` (R243). -/
def execFetchA (s : State) : Host.Outcome State Fault Refusal := s.fetchVia s.addrA id

/-- `!p` (R244). -/
def execStoreP (s : State) : Host.Outcome State Fault Refusal := s.storeVia s.addrP State.bumpP

/-- `!+` (R245). -/
def execStorePlus (s : State) : Host.Outcome State Fault Refusal := s.storeVia s.addrA State.bumpA

/-- `!b` (R246). -/
def execStoreB (s : State) : Host.Outcome State Fault Refusal := s.storeVia s.addrB id

/-- `!` (R247). -/
def execStoreA (s : State) : Host.Outcome State Fault Refusal := s.storeVia s.addrA id

end Sys2Proof.Machine
end

