-- ==== Sys2Proof/Machine/Stack.lean ====
section
/-! DEFINITION. The stack and register-move instructions `drop` `dup` `pop` `over` `a` `.` `push` `b!` `a!`
(spec/42_stack_register.md R220 to R228). PRESUMED (log 29, the spec's D2): that `push` takes from `t`,
`pop` delivers to `t`, and the set of moves; unsafe. -/

namespace Sys2Proof.Machine

/-- `drop` (R220). -/
def execDrop (s : State) : Host.Outcome State Fault Refusal := .next s.dpop.advance

/-- `dup` (R221). -/
def execDup (s : State) : Host.Outcome State Fault Refusal := .next (s.dpush s.t).advance

/-- `pop` (R222): the top of the return stack moves to the data stack. -/
def execPop (s : State) : Host.Outcome State Fault Refusal := .next (s.rpop.dpush s.r).advance

/-- `over` (R223). -/
def execOver (s : State) : Host.Outcome State Fault Refusal := .next (s.dpush s.s).advance

/-- `a` (R224). -/
def execReadA (s : State) : Host.Outcome State Fault Refusal := .next (s.dpush s.a).advance

/-- `.` (R225). -/
def execNop (s : State) : Host.Outcome State Fault Refusal := .next s.advance

/-- `push` (R226): the top of the data stack moves to the return stack. -/
def execPush (s : State) : Host.Outcome State Fault Refusal := .next (s.dpop.rpush s.t).advance

/-- `b!` (R227): bits 17:9 of `t` are dropped. -/
def execSetB (s : State) : Host.Outcome State Fault Refusal :=
  .next { s.dpop with b := s.t.setWidth 9 }.advance

/-- `a!` (R228). -/
def execSetA (s : State) : Host.Outcome State Fault Refusal :=
  .next { s.dpop with a := s.t }.advance

end Sys2Proof.Machine
end

