-- ==== Sys2Proof/Machine/Dispatch.lean ====
section
/-! DEFINITION. One arm per instruction, each the direct call of its meaning (spec/30_encoding.md R131). -/

namespace Sys2Proof.Machine

def exec (i : Instr) (s : State) : Host.Outcome State Fault Refusal :=
  match i with
  | .ret => Sys2Proof.Machine.execRet s
  | .ex => Sys2Proof.Machine.execEx s
  | .jump d => Sys2Proof.Machine.execJump d s
  | .call d => Sys2Proof.Machine.execCall d s
  | .unext => Sys2Proof.Machine.execUnext s
  | .next d => Sys2Proof.Machine.execNext d s
  | .ifZero d => Sys2Proof.Machine.execIfZero d s
  | .ifPlus d => Sys2Proof.Machine.execIfPlus d s
  | .fetchP => Sys2Proof.Machine.execFetchP s
  | .fetchPlus => Sys2Proof.Machine.execFetchPlus s
  | .fetchB => Sys2Proof.Machine.execFetchB s
  | .fetchA => Sys2Proof.Machine.execFetchA s
  | .storeP => Sys2Proof.Machine.execStoreP s
  | .storePlus => Sys2Proof.Machine.execStorePlus s
  | .storeB => Sys2Proof.Machine.execStoreB s
  | .storeA => Sys2Proof.Machine.execStoreA s
  | .mulStep => Sys2Proof.Machine.execMulStep s
  | .shl => Sys2Proof.Machine.execShl s
  | .shr => Sys2Proof.Machine.execShr s
  | .inv => Sys2Proof.Machine.execInv s
  | .add => Sys2Proof.Machine.execAdd s
  | .and => Sys2Proof.Machine.execAnd s
  | .xor => Sys2Proof.Machine.execXor s
  | .drop => Sys2Proof.Machine.execDrop s
  | .dup => Sys2Proof.Machine.execDup s
  | .pop => Sys2Proof.Machine.execPop s
  | .over => Sys2Proof.Machine.execOver s
  | .readA => Sys2Proof.Machine.execReadA s
  | .nop => Sys2Proof.Machine.execNop s
  | .push => Sys2Proof.Machine.execPush s
  | .setB => Sys2Proof.Machine.execSetB s
  | .setA => Sys2Proof.Machine.execSetA s

end Sys2Proof.Machine
end

