-- ==== Sys2Proof/Machine/Step.lean ====
section
/-! DEFINITION. One step of a node (spec/40_control.md R170 to R176): a fetch step when `k` is 0, else the
slot step of the instruction decoded from the latched word. -/

namespace Sys2Proof.Machine

/-- The slot step (R172): run the instruction in slot `k` of `i`. -/
def slotStep (k : Slot) (s : State) : Host.Outcome State Fault Refusal :=
  match decode s.cfg s.i k with
  | .ok i => exec i s
  | .error .destinationInSlot4 => .refused .destinationInSlot4

/-- One step of a node (R14, R170). A configuration the spec tells a model to refuse is refused (log 5). -/
def step (s : State) : Host.Outcome State Fault Refusal :=
  if s.cfg.ok then
    match s.k with
    | .fetch => fetchStep s
    | .slot k => slotStep k s
  else .refused .badConfig

/-- The state whose very next step runs the instruction in slot 1 of the word `w`: the word stands in the
latch `i` with the sequencer at slot 1, as a fetch step leaves it (R171; log 14). -/
def State.withFetchWord (s : State) (_nbits w : Nat) : State :=
  { s with i := BitVec.ofNat 18 w, k := .slot .one }

end Sys2Proof.Machine
end

