-- ==== Sys2Proof/Machine/Assembler.lean ====
section
/-! DEFINITION. The packing of a line of mnemonics into a word, text included (spec/30_encoding.md R150 to
R163; spec/00_scope.md R3, R5). It is no part of a node's step. DESIGN CHOICE (log 34): what the spec
leaves open about a line's text; unsafe for claims about text, which no step reads. -/

namespace Sys2Proof.Machine

/-! ## Mnemonics and values -/

/-- The spelling of a mnemonic (R131, R154), lower case only (D26). -/
def opName : Op → String
  | .ret => ";"
  | .ex => "ex"
  | .jump => "jump"
  | .call => "call"
  | .unext => "unext"
  | .next => "next"
  | .ifZero => "if"
  | .ifPlus => "-if"
  | .fetchP => "@p"
  | .fetchPlus => "@+"
  | .fetchB => "@b"
  | .fetchA => "@"
  | .storeP => "!p"
  | .storePlus => "!+"
  | .storeB => "!b"
  | .storeA => "!"
  | .mulStep => "+*"
  | .shl => "2*"
  | .shr => "2/"
  | .inv => "-"
  | .add => "+"
  | .and => "and"
  | .xor => "or"
  | .drop => "drop"
  | .dup => "dup"
  | .pop => "pop"
  | .over => "over"
  | .readA => "a"
  | .nop => "."
  | .push => "push"
  | .setB => "b!"
  | .setA => "a!"

/-- The mnemonic a name spells. -/
def opNamed (name : List Char) : Option Op := Op.all.find? fun op => (opName op).toList == name

/-- The port address of a set of neighbours (R73, R75). -/
def portAddr (pattern : BitVec 4) (right down left up : Bool) : Addr :=
  1#1 ++ BitVec.ofBool right ++ BitVec.ofBool (!down) ++ BitVec.ofBool left ++ BitVec.ofBool (!up) ++ pattern

/-- The symbol table (R155); the ninth direction name is accepted in both spellings (C7). -/
def symbols (cfg : Config) : List (String × Addr) :=
  let port := portAddr cfg.portPattern
  [("stdio", cfg.addrStdio), ("stdin", cfg.addrStdin), ("stdout", cfg.addrStdout), ("tty", cfg.addrTty),
   ("io", cfg.addrIo), ("data", cfg.addrData),
   ("---u", port false false false true), ("--l-", port false false true false),
   ("--lu", port false false true true), ("-d--", port false true false false),
   ("-d--u", port false true false true), ("-d-u", port false true false true),
   ("-dl-", port false true true false), ("-dlu", port false true true true),
   ("r---", port true false false false), ("r--u", port true false false true),
   ("r-l-", port true false true false), ("r-lu", port true false true true),
   ("rd--", port true true false false), ("rd-u", port true true false true),
   ("rdl-", port true true true false), ("rdlu", port true true true true)]

/-- A hexadecimal digit, in either case (R152). -/
def hexDigit (c : Char) : Option Nat :=
  if '0' ≤ c ∧ c ≤ '9' then some (c.toNat - '0'.toNat)
  else if 'a' ≤ c ∧ c ≤ 'f' then some (c.toNat - 'a'.toNat + 10)
  else if 'A' ≤ c ∧ c ≤ 'F' then some (c.toNat - 'A'.toNat + 10)
  else none

/-- Hexadecimal digits read on from a value (R156). -/
def hexFrom (acc : Nat) : List Char → Option Nat
  | [] => some acc
  | c :: cs =>
    match hexDigit c with
    | some d => hexFrom (16 * acc + d) cs
    | none => none

/-- A symbol or a hexadecimal literal (R155, R156). -/
def tokenValue (cfg : Config) (token : List Char) : Option Nat :=
  match (symbols cfg).find? fun e => e.1.toList == token with
  | some e => some e.2.toNat
  | none => if token = [] then none else hexFrom 0 token

/-! ## Packing -/

/-- A mnemonic of a line, with the destination value written for it. -/
structure AsmItem where
  op : Op
  dest : Option Nat
  deriving DecidableEq, Repr

/-- Why a line gives no word (R162). -/
inductive AsmError where
  /-- a token that is neither a mnemonic nor, in its place, a value -/
  | malformed
  /-- a destination-taking mnemonic with no value -/
  | missingDest
  /-- a destination on a mnemonic that takes none (R159) -/
  | unexpectedDest
  /-- more than four mnemonics (U19) -/
  | tooMany
  deriving DecidableEq, Repr

/-- The bits of an opcode in its slot of the decoded word, `place(o, k)` (R157, C2). -/
def place (o : BitVec 5) : Slot → Word
  | .one => o.setWidth 18 <<< 13
  | .two => o.setWidth 18 <<< 8
  | .three => o.setWidth 18 <<< 3
  | .four => (o >>> 2).setWidth 18

/-- A destination value masked to the width of its slot (R158); slot 4 carries none. -/
def destOfNat (d : Nat) : Slot → Option Dest
  | .one => some (.slot1 (BitVec.ofNat 10 d))
  | .two => some (.slot2 (BitVec.ofNat 8 d))
  | .three => some (.slot3 (BitVec.ofNat 3 d))
  | .four => none

/-- Whether an opcode in slot 4 gets the assembler's diagnostic (R124, R160). -/
def slot4Diag (o : BitVec 5) : Bool := o.extractLsb' 0 2 != 0

/-- Fill the remaining slots, given what is packed so far (R157 to R161): the word, and whether the
slot-4 diagnostic was emitted. The word goes through `IMASK`, a destination over it as it is. -/
def packFrom (cfg : Config) : List Slot → List AsmItem → Word → Except AsmError (Word × Bool)
  | [], [], acc => .ok (unmask cfg acc, false)
  | [], _ :: _, _ => .error .tooMany
  | k :: ks, [], acc => packFrom cfg ks [] (acc ||| place (cfg.opcodeOf .nop) k)
  | k :: ks, item :: rest, acc =>
    let o := cfg.opcodeOf item.op
    let acc := acc ||| place o k
    if k = .four then
      match packFrom cfg ks rest acc with
      | .ok (w, d) => .ok (w, d || slot4Diag o)
      | .error e => .error e
    else
      match item.op.takesDest, item.dest with
      | true, some v =>
        match destOfNat v k with
        | some d => .ok (putDest (unmask cfg acc) d, false)
        | none => .error .unexpectedDest
      | true, none => .error .missingDest
      | false, some _ => .error .unexpectedDest
      | false, none => packFrom cfg ks rest acc

/-- The slots in order. -/
def slots : List Slot := [.one, .two, .three, .four]

/-- The word of up to four mnemonics (R158, R161). -/
def pack (cfg : Config) (items : List AsmItem) : Except AsmError (Word × Bool) :=
  packFrom cfg slots items 0#18

/-! ## Lines -/

/-- A blank. -/
def isBlank (c : Char) : Bool := c == ' ' || c == '\t'

/-- Skip leading blanks and parenthesized comments (R151); `inside` says that a comment is open.
DESIGN CHOICE (log 34): a comment ends at its first closing parenthesis, so comments do not nest, and an
unclosed one takes the rest of the line; unsafe for claims about text. -/
def skipLead (inside : Bool) : List Char → List Char
  | [] => []
  | c :: cs =>
    if inside then skipLead (c != ')') cs
    else if isBlank c then skipLead false cs
    else if c == '(' then skipLead true cs
    else c :: cs

/-- Split at blanks (R152); `word` is the token being read, its last character first. -/
def tokensFrom (word : List Char) : List Char → List (List Char)
  | [] => if word = [] then [] else [word.reverse]
  | c :: cs =>
    if isBlank c then
      if word = [] then tokensFrom [] cs else word.reverse :: tokensFrom [] cs
    else tokensFrom (c :: word) cs

/-- The part of a token before a colon, and the part after it where there is one (R152). -/
def splitColon : List Char → List Char × Option (List Char)
  | [] => ([], none)
  | c :: cs => if c == ':' then ([], some cs) else ((c :: (splitColon cs).1), (splitColon cs).2)

/-- A token that is a mnemonic, with the text of its attached destination. -/
def mnemonicToken (token : List Char) : Option (Op × Option (List Char)) :=
  match opNamed (splitColon token).1 with
  | some op => some (op, (splitColon token).2)
  | none => none

/-- Read tokens as the mnemonics of slots 1 to 4 (R158, R159): a destination-taking mnemonic takes its
attached value or the next token, and ends the line; in slot 4 it takes none (R160).
DESIGN CHOICE (log 34): a text attached to it in slot 4 is dropped unread, even one that is no literal and
no symbol; unsafe for claims about text. -/
def itemsFrom (cfg : Config) : List Slot → List (List Char) → Except AsmError (List AsmItem)
  | _, [] => .ok []
  | [], _ :: _ => .error .tooMany
  | k :: ks, token :: rest =>
    match mnemonicToken token with
    | none => .error .malformed
    | some (op, attached) =>
      if op.takesDest && k != .four then
        match attached, rest with
        | some text, _ =>
          match tokenValue cfg text with
          | some v => .ok [⟨op, some v⟩]
          | none => .error .malformed
        | none, text :: _ =>
          match tokenValue cfg text with
          | some v => .ok [⟨op, some v⟩]
          | none => .error .malformed
        | none, [] => .error .missingDest
      else if attached.isSome && !op.takesDest then .error .unexpectedDest
      else
        match itemsFrom cfg ks rest with
        | .ok items => .ok (⟨op, none⟩ :: items)
        | .error e => .error e

/-- What one line gives (R150, R162). -/
inductive Line where
  /-- nothing: no token, or a full-line comment -/
  | empty
  /-- a word, and whether the slot-4 diagnostic was emitted -/
  | word (w : Word) (slot4 : Bool)
  /-- a parse error -/
  | error (e : AsmError)
  deriving DecidableEq, Repr

/-- Assemble one line (R150 to R162): a first token that is no mnemonic makes the line a bare value. -/
def assemble (cfg : Config) (line : String) : Line :=
  match tokensFrom [] (skipLead false line.toList) with
  | [] => .empty
  | first :: rest =>
    if first = ['\\'] then .empty
    else
      match mnemonicToken first with
      | none =>
        match tokenValue cfg first with
        | some v => .word (BitVec.ofNat 18 v) false
        | none => .error .malformed
      | some _ =>
        match itemsFrom cfg slots (first :: rest) with
        | .error e => .error e
        | .ok items =>
          match pack cfg items with
          | .ok (w, d) => .word w d
          | .error e => .error e

end Sys2Proof.Machine
end

