-- ==== Sys2Proof/Machine/Environment.lean ====
section
/-! DEFINITION. What the environment may do between two steps of a node, and runs that interleave its moves
with the node's steps (spec/20_memory.md R80, R81, R90, R95, R107; spec/40_control.md R173;
spec/60_exceptions.md R274). `step` alone moves the node only (log 10). -/

namespace Sys2Proof.Machine

/-- One move of the environment. On an absent channel a move does nothing. -/
inductive EnvMove where
  /-- an answer becomes available on a neighbour link, after those already there (R81) -/
  | deliver (d : Dir) (x : Answer 18)
  /-- an answer becomes available on stdin, after those already there -/
  | deliverStdin (x : Answer 18)
  /-- an answer becomes available on the console, after those already there -/
  | deliverTty (x : Answer 8)
  /-- the next `Recv` on a channel will answer `err` (U12) -/
  | breakRecv (ch : Chan)
  /-- `WrReady` of a neighbour link changes (D15) -/
  | writeReady (d : Dir) (ready : Bool)
  /-- `Send` on a channel begins or ceases to answer `err` (U12) -/
  | sendFails (ch : Chan) (failing : Bool)
  deriving DecidableEq, Repr

/-- Change a neighbour link that is there. -/
def State.onLink (d : Dir) (f : Link → Link) (s : State) : State :=
  match s.link d with
  | some l => s.setLink d (f l)
  | none => s

/-- Change stdin where it is there. -/
def State.onStdin (f : HostIn → HostIn) (s : State) : State :=
  { s with env := { s.env with stdin := s.env.stdin.map f } }

/-- Change stdout where it is there. -/
def State.onStdout (f : HostOut → HostOut) (s : State) : State :=
  { s with env := { s.env with stdout := s.env.stdout.map f } }

/-- Change the console where it is there. -/
def State.onTty (f : Console → Console) (s : State) : State :=
  { s with env := { s.env with tty := s.env.tty.map f } }

/-- The state after a move of the environment. -/
def State.envMove (m : EnvMove) (s : State) : State :=
  match m with
  | .deliver d x => s.onLink d fun l => { l with rx := l.rx ++ [x] }
  | .deliverStdin x => s.onStdin fun h => { h with rx := h.rx ++ [x] }
  | .deliverTty x => s.onTty fun h => { h with rx := h.rx ++ [x] }
  | .breakRecv (.link d) => s.onLink d fun l => { l with rx := .err :: l.rx }
  | .breakRecv .stdin => s.onStdin fun h => { h with rx := .err :: h.rx }
  | .breakRecv .stdout => s
  | .breakRecv .tty => s.onTty fun h => { h with rx := .err :: h.rx }
  | .writeReady d ready => s.onLink d fun l => { l with wrReady := ready }
  | .sendFails (.link d) failing => s.onLink d fun l => { l with sendErr := failing }
  | .sendFails .stdin _ => s
  | .sendFails .stdout failing => s.onStdout fun h => { h with sendErr := failing }
  | .sendFails .tty failing => s.onTty fun h => { h with sendErr := failing }

/-- One event of a run: the node takes a step, or the environment moves. -/
inductive Event where
  | node
  | env (m : EnvMove)
  deriving DecidableEq, Repr

/-- The outcome of one event. -/
def State.event (e : Event) (s : State) : Host.Outcome State Fault Refusal :=
  match e with
  | .node => step s
  | .env m => .next (s.envMove m)

/-- A run over a list of events, stopping at the first fault or refusal. -/
def runEvents : List Event → State → Host.Outcome State Fault Refusal
  | [], s => .next s
  | e :: es, s =>
    match s.event e with
    | .next s' => runEvents es s'
    | .fault f => .fault f
    | .refused r => .refused r

end Sys2Proof.Machine
end

