-- ==== Sys2Proof/Safety.lean ====
section
/-! DEFINITION. The terms claims use: the invariant of a node's state, a held and a stopped node, repeated
instructions, and states that differ by a rotation of a stack
(spec/10_state.md R34, R45; spec/40_control.md R173, R175; spec/60_exceptions.md R280). -/

namespace Sys2Proof.Machine

/-- Both memories are in canonical form: 64 cells of 18 bits (R35, R36, R45). The other bounds of R45
are the types of the fields. -/
abbrev State.Inv (s : State) : Prop := s.ram.wf ∧ s.rom.wf

/-- The address a fetch instruction reads: `@p`, `@+`, `@b`, `@` (R249). -/
def fetchAddr (i : Instr) (s : State) : Option Addr :=
  match i with
  | .fetchP => some s.addrP
  | .fetchPlus => some s.addrA
  | .fetchB => some s.addrB
  | .fetchA => some s.addrA
  | _ => none

/-- The address a store instruction writes: `!p`, `!+`, `!b`, `!` (R249). -/
def storeAddr (i : Instr) (s : State) : Option Addr :=
  match i with
  | .storeP => some s.addrP
  | .storePlus => some s.addrA
  | .storeB => some s.addrB
  | .storeA => some s.addrA
  | _ => none

/-- The address register after a memory instruction: `@p` and `!p` increment `p`, `@+` and `!+` increment
`a`, the others none (R249). -/
def afterAccess (i : Instr) (s : State) : State :=
  match i with
  | .fetchP | .storeP => { s with p := inc7 s.p }
  | .fetchPlus | .storePlus => { s with a := inc7 s.a }
  | _ => s

/-- The address the next step reads, where it makes a read (R173): the fetch step of a node that has
not stopped, and the slot steps of the fetch instructions. -/
def State.nextRead (s : State) : Option Addr :=
  match s.k with
  | .fetch => if s.halt then none else some s.addrP
  | .slot k =>
    match decode s.cfg s.i k with
    | .ok i => fetchAddr i s
    | .error _ => none

/-- The address the next step writes, where it makes a write (R173, R263). -/
def State.nextWrite (s : State) : Option Addr :=
  match s.k with
  | .fetch => none
  | .slot k =>
    match decode s.cfg s.i k with
    | .ok i => storeAddr i s
    | .error _ => none

/-- The read at `addr` selects a channel and none of those it selects is ready (R94). -/
def State.blocked (s : State) (addr : Addr) : Bool :=
  addr.getLsbD 8 && addr != s.cfg.addrIo &&
  !(s.select addr .read).isEmpty && (s.select addr .read).all fun e => !s.rdReady e.1

/-- The node is held: its next step reads a port with no ready channel (R173, R280). -/
def State.held (s : State) : Bool :=
  match s.nextRead with
  | some addr => s.blocked addr
  | none => false

/-- The state with the answers that wait on every channel put aside: all that is left is the node, which
channels are there, their write-readiness and failing, and what was sent on them. -/
def State.quiet (s : State) : State :=
  let hush : Option Link → Option Link := Option.map fun l => { l with rx := [] }
  { s with env := { s.env with
      links := ⟨hush s.env.links.right, hush s.env.links.down, hush s.env.links.left, hush s.env.links.up⟩
      stdin := s.env.stdin.map fun h => { h with rx := [] }
      tty := s.env.tty.map fun h => { h with rx := [] } } }

/-- `u` is `s` but for the oldest answer of the channel `ch`, which is gone and leaves `rest` (R80, R95):
every other channel's answers, and all else, are as in `s`. -/
def State.TookAnswer (s : State) (ch : Chan) (rest : List (Answer 18)) (u : State) : Prop :=
  u.pending ch = rest ∧ (∀ c, c ≠ ch → u.pending c = s.pending c) ∧ u.quiet = s.quiet

/-- Whether `Send` on a channel answers `err` now (R80, U12); an absent channel is never sent to. -/
def State.sendFails (s : State) : Chan → Bool
  | .link d => match s.link d with | some l => l.sendErr | none => false
  | .stdin => false
  | .stdout => match s.env.stdout with | some x => x.sendErr | none => false
  | .tty => match s.env.tty with | some x => x.sendErr | none => false

/-- The node has stopped (R175). -/
def State.stopped (s : State) : Bool := s.halt && s.k == .fetch

/-- Run one instruction `n` times. -/
def execTimes : Nat → Instr → State → Host.Outcome State Fault Refusal
  | 0, _, s => .next s
  | n + 1, i, s =>
    match exec i s with
    | .next s' => execTimes n i s'
    | .fault f => .fault f
    | .refused r => .refused r

/-- Push values in order (R30). -/
def State.dpushAll (vs : List Word) (s : State) : State := vs.foldl (fun s v => s.dpush v) s

/-- Pop `n` times, giving the values popped in order (R31). -/
def State.dpopMany : Nat → State → List Word
  | 0, _ => []
  | n + 1, s => s.t :: State.dpopMany n s.dpop

/-- Push values in order on the return stack (R32). -/
def State.rpushAll (vs : List Word) (s : State) : State := vs.foldl (fun s v => s.rpush v) s

/-- Pop the return stack `n` times, giving the values popped in order (R33). -/
def State.rpopMany : Nat → State → List Word
  | 0, _ => []
  | n + 1, s => s.r :: State.rpopMany n s.rpop

/-- The cells moved up by `n` places, cyclically. -/
def Cells.rotate (n : BitVec 3) (x : Cells) : Cells :=
  Vector.ofFn fun j : Fin 8 => x.get (BitVec.ofFin j - n)

/-- Rotate each stack together with its pointer (R34 d). -/
def State.rotate (n m : BitVec 3) (s : State) : State :=
  { s with ds := s.ds.rotate n, sp := s.sp + n, rs := s.rs.rotate m, rp := s.rp + m }

/-- Apply a change of state to the next state of an outcome. -/
def mapNext (f : State → State) : Host.Outcome State Fault Refusal → Host.Outcome State Fault Refusal
  | .next s => .next (f s)
  | .fault x => .fault x
  | .refused x => .refused x

end Sys2Proof.Machine
end

