-- ==== Sys2Proof/Certificates/Slice0/Obligations.lean ====
section
/-! DEFINITION. The statements for the provers. Rule numbers are those of spec/; "log n" is
notes/assumptions/n.md; "D n" is a decision of spec/92_eei_decisions.md, the spec's own choice. -/

open Sys2Proof Sys2Proof.Machine

/-! ## Encoding and decoding -/

/-- R122, R123, R125, R132 over every admitted configuration: an instruction written into its slot of any
word decodes as itself there, with its destination. -/
def Obligations.DecodeOfEncodeIsTheInstruction : Prop :=
  ∀ (cfg : Config) (k : Slot) (i : Instr) (W : Word), cfg.ok = true → i.wf cfg k = true →
    decode cfg (encodeInto cfg k i W) k = .ok i

/-- The other direction: what a slot decodes to is well formed for that slot, and writing it back
changes no bit of the word. -/
def Obligations.EncodeOfDecodeIsTheWord : Prop :=
  ∀ (cfg : Config) (k : Slot) (i : Instr) (W : Word), cfg.ok = true → decode cfg W k = .ok i →
    i.wf cfg k = true ∧ encodeInto cfg k i W = W

/-- R140: every word decodes in every slot, and every opcode value is the number of an instruction. -/
def Obligations.EveryWordDecodesInEverySlot : Prop :=
  ∀ cfg : Config, cfg.ok = true →
    (∀ (W : Word) (k : Slot), ∃ i, decode cfg W k = .ok i) ∧
    (∀ o : BitVec 5, cfg.opcodeOf (cfg.opAt o) = o)

/-- R127: the `XOR` with `IMASK` is its own inverse. -/
def Obligations.ImaskXorIsSelfInverse : Prop :=
  ∀ (cfg : Config) (v : Word), unmask cfg (unmask cfg v) = v

/-- R123: the opcode of each slot is the one the source's shifts of the 32-bit `S` give
(`(S >> 15) & 0x1F`, then `S` left by 5); the fields read by the model are the spec's derived closed form. -/
def Obligations.OpcodeFieldsFollowTheShifts : Prop :=
  ∀ (cfg : Config) (W : Word),
    let S : BitVec 32 := (unmask cfg W).setWidth 32 <<< 2
    opcode cfg W .one = ((S >>> 15) &&& 0x1F#32).setWidth 5 ∧
    opcode cfg W .two = (((S <<< 5) >>> 15) &&& 0x1F#32).setWidth 5 ∧
    opcode cfg W .three = (((S <<< 10) >>> 15) &&& 0x1F#32).setWidth 5 ∧
    opcode cfg W .four = (((S <<< 15) >>> 15) &&& 0x1F#32).setWidth 5

/-- Words written out from the encoding of R121, R126 and R131 with the default parameters (PRESUMED,
log 3) decode to the instructions they stand for: the four slots of `dup over + .` (R164), a transfer in
each slot that can hold one, a store, and RAM's zero word (R295). -/
def Obligations.WordsOfEveryFamilyDecode : Prop :=
  slots.map (decode Config.default 0x24FF2#18) = [.ok .dup, .ok .over, .ok .add, .ok .nop] ∧
  decode Config.default 0x1940A#18 .one = .ok (.ifZero (.slot1 0x00A#10)) ∧
  decode Config.default 0x2D734#18 .two = .ok (.jump (.slot2 0x34#8)) ∧
  decode Config.default 0x2C94F#18 .three = .ok (.call (.slot3 7#3)) ∧
  decode Config.default 0x0C9B2#18 .one = .ok .storeP ∧
  slots.map (decode Config.default 0x00000#18) = [.ok .fetchB, .ok .and, .ok .fetchB, .ok .add]

/-- R301, R124 with the default opcode numbers (PRESUMED, log 3): slot 4 holds only
`;` `unext` `@p` `!p` `+*` `+` `dup` `.`. -/
def Obligations.SlotFourHoldsEightInstructions : Prop :=
  ∀ W : Word, ∃ i ∈ [Instr.ret, .unext, .fetchP, .storeP, .mulStep, .add, .dup, .nop],
    decode Config.default W .four = .ok i

/-- R121, R144: what a slot decodes to depends on no bit but its opcode's and its destination's; after a
slot-1 transfer bits 12:10 are ignored. -/
def Obligations.OtherBitsOfAWordAreIgnored : Prop :=
  ∀ (cfg : Config) (W V : Word),
    ((∀ j, j < 10 ∨ 13 ≤ j → W.getLsbD j = V.getLsbD j) → decode cfg W .one = decode cfg V .one) ∧
    ((∀ j, j < 13 → W.getLsbD j = V.getLsbD j) → decode cfg W .two = decode cfg V .two) ∧
    ((∀ j, j < 8 → W.getLsbD j = V.getLsbD j) → decode cfg W .three = decode cfg V .three) ∧
    ((∀ j, j < 3 → W.getLsbD j = V.getLsbD j) → decode cfg W .four = decode cfg V .four)

/-- R161, R164, R141: four mnemonics, none of the first three taking a destination, pack into a word
whose first three slots hold their opcodes and whose slot 4 holds the fourth's with its low two bits
cleared; the diagnostic is emitted exactly when those bits were not clear. -/
def Obligations.PackedMnemonicsDecode : Prop :=
  ∀ (cfg : Config) (w x y z : Op),
    w.takesDest = false → x.takesDest = false → y.takesDest = false →
    ∃ W, pack cfg [⟨w, none⟩, ⟨x, none⟩, ⟨y, none⟩, ⟨z, none⟩] =
        .ok (W, (cfg.opcodeOf z).extractLsb' 0 2 != 0#2) ∧
      opcode cfg W .one = cfg.opcodeOf w ∧ opcode cfg W .two = cfg.opcodeOf x ∧
      opcode cfg W .three = cfg.opcodeOf y ∧ opcode cfg W .four = cfg.opcodeOf z &&& 0x1C#5

/-- R158: a destination-taking mnemonic in slot 1, 2 or 3 ends the line; the word holds its opcode in that
slot and the destination, reduced to 10, 8 or 3 bits, in the low bits. -/
def Obligations.PackedTransferCarriesItsDestination : Prop :=
  ∀ (cfg : Config) (x y op : Op) (d : Nat) (rest : List AsmItem),
    x.takesDest = false → y.takesDest = false → op.takesDest = true →
    (∃ W, pack cfg (⟨op, some d⟩ :: rest) = .ok (W, false) ∧
      opcode cfg W .one = cfg.opcodeOf op ∧ destField W .one = .ok (.slot1 (BitVec.ofNat 10 d))) ∧
    (∃ W, pack cfg (⟨x, none⟩ :: ⟨op, some d⟩ :: rest) = .ok (W, false) ∧
      opcode cfg W .one = cfg.opcodeOf x ∧
      opcode cfg W .two = cfg.opcodeOf op ∧ destField W .two = .ok (.slot2 (BitVec.ofNat 8 d))) ∧
    (∃ W, pack cfg (⟨x, none⟩ :: ⟨y, none⟩ :: ⟨op, some d⟩ :: rest) = .ok (W, false) ∧
      opcode cfg W .one = cfg.opcodeOf x ∧ opcode cfg W .two = cfg.opcodeOf y ∧
      opcode cfg W .three = cfg.opcodeOf op ∧ destField W .three = .ok (.slot3 (BitVec.ofNat 3 d)))

/-! ## Steps -/

/-- R172: when the current slot of the latched word decodes to `i`, the step is `exec i` and nothing else;
a step adds nothing around it. -/
def Obligations.StepRunsTheDecodedInstruction : Prop :=
  ∀ (s : State) (k : Slot) (i : Instr), s.cfg.ok = true → s.k = .slot k →
    decode s.cfg s.i k = .ok i → step s = exec i s

/-- R171: from RAM and ROM the word is latched, `p` is incremented, slot 1 is next and nothing else changes;
wherever a read completes, the same over the state it leaves, and a word whose read set `halt` is latched
but not executed. That the flag is tested before the read too is D8 (log 18). -/
def Obligations.FetchStepLatchesTheWord : Prop :=
  ∀ s : State, s.cfg.ok = true → s.k = .fetch → s.halt = false →
    (region s.addrP = .ram →
      step s = .next { s with i := s.ram.read (cell s.addrP), p := inc7 s.p, k := .slot .one }) ∧
    (region s.addrP = .rom →
      step s = .next { s with i := s.rom.read (cell s.addrP), p := inc7 s.p, k := .slot .one }) ∧
    (∀ w u, s.memRead s.addrP = some (w, u) →
      step s = .next { u with
        i := w, p := inc7 s.p, k := if u.halt then .fetch else .slot .one })

/-- R260, R175: under an admitted configuration no step is refused, and the only stop is that of a node
whose `halt` is set at a fetch boundary; any other configuration is refused (U4, U5). The names of the fault
and of the refusal, and that `step` makes them, are the model's (log 5, log 9); so is the next state of a
node held on a port, whose step the spec calls not enabled (log 8). -/
def Obligations.WhenAStepStops : Prop :=
  ∀ s : State,
    if s.cfg.ok = false then step s = .refused .badConfig
    else if s.halt = true ∧ s.k = .fetch then step s = .fault .stopped
    else ∃ t, step s = .next t

/-- R173: the steps that can be held are the fetch step and those of `@p`, `@+`, `@b`, `@` at an I/O
address, not `io`, that selects channels of which none is ready; a step leaves the state exactly as it was
in that case and in no other. That a held step answers that same state is the model's choice (log 8). -/
def Obligations.AStepThatChangesNothingIsHeld : Prop :=
  ∀ s : State, step s = .next s ↔ (s.cfg.ok = true ∧ s.held = true)

/-- R133, R172: slots run in the order 1 to 4 and a fetch follows slot 4; `jump call next if -if ; ex` end
the word, taken or not (for `ex` this is D27, log 28); `unext` restarts it or goes on (D22, log 24); every
other instruction goes on to the next slot, unless it is a fetch that is held, which leaves the state as it
was (log 8). -/
def Obligations.ControlTransfersEndTheWord : Prop :=
  [Slot.one, .two, .three, .four].map (fun n => (Phase.slot n).next) =
    [.slot .two, .slot .three, .slot .four, .fetch] ∧
  ∀ (i : Instr) (s t : State), exec i s = .next t →
    if i.op ∈ [Op.jump, .call, .next, .ifZero, .ifPlus, .ret, .ex] then t.k = .fetch
    else if i = .unext then t.k = if s.r = 0 then s.k.next else .slot .one
    else t.k = s.k.next ∨ (t = s ∧ ∃ addr, fetchAddr i s = some addr ∧ s.blocked addr = true)

/-- R26, R109: no slot step writes the latched word, whatever it stores; nor the configuration or ROM. -/
def Obligations.SlotStepsKeepTheLatchedWord : Prop :=
  ∀ (s t : State) (k : Slot), s.k = .slot k → step s = .next t →
    t.i = s.i ∧ t.cfg = s.cfg ∧ t.rom = s.rom

/-- R39: a step changes P9 only through `jump call next if -if ; ex`; the increments of `p` keep it. -/
def Obligations.OnlyTransfersChangeP9 : Prop :=
  ∀ s t : State, step s = .next t → t.p9 ≠ s.p9 →
    ∃ k i, s.k = .slot k ∧ decode s.cfg s.i k = .ok i ∧
      i.op ∈ [Op.jump, .call, .next, .ifZero, .ifPlus, .ret, .ex]

/-! ## Control transfers -/

/-- R178, R125: a slot-1 destination is all of `p`; the 8- and 3-bit ones are zero-extended, which is D21
(log 23). -/
def Obligations.DestinationsAreZeroExtended : Prop :=
  (∀ d : BitVec 10, (destTarget (.slot1 d)).toNat = d.toNat) ∧
  (∀ d : BitVec 8, (destTarget (.slot2 d)).toNat = d.toNat) ∧
  (∀ d : BitVec 3, (destTarget (.slot3 d)).toNat = d.toNat)

/-- R180, R181: `jump` loads `p`; `call` first pushes `p`, P9 included, on the return stack. Nothing else
changes, memory and `c` included. -/
def Obligations.JumpAndCallLoadP : Prop :=
  ∀ (s : State) (d : Dest),
    exec (.jump d) s = .next { s with p := destTarget d, k := .fetch } ∧
    exec (.call d) s = .next { s with
      rs := s.rs.set s.rp s.r, rp := s.rp + 1, r := BitVec.ofNat 18 s.p.toNat,
      p := destTarget d, k := .fetch }

/-- R183, R184: `;` loads `p` from `r` and pops; `ex` swaps `p` and `r`, 10 bits of it. That `ex` ends
the word is D27 (log 28). -/
def Obligations.ReturnAndExecute : Prop :=
  ∀ s : State,
    exec .ret s = .next { s with
      p := BitVec.ofNat 10 s.r.toNat, r := s.rs.get (s.rp - 1), rp := s.rp - 1, k := .fetch } ∧
    exec .ex s = .next { s with p := BitVec.ofNat 10 s.r.toNat, r := BitVec.ofNat 18 s.p.toNat, k := .fetch }

/-- R182, R185: at zero `next` and `unext` pop the count and fall through, otherwise they count down and
branch; the branch of `unext` is a restart of the word (D22, log 24). -/
def Obligations.CountedLoops : Prop :=
  ∀ (s : State) (d : Dest),
    (s.r = 0#18 →
      exec (.next d) s = .next { s with r := s.rs.get (s.rp - 1), rp := s.rp - 1, k := .fetch } ∧
      exec .unext s = .next { s with r := s.rs.get (s.rp - 1), rp := s.rp - 1, k := s.k.next }) ∧
    (s.r ≠ 0#18 →
      exec (.next d) s = .next { s with
        r := BitVec.ofNat 18 (s.r.toNat - 1), p := destTarget d, k := .fetch } ∧
      exec .unext s = .next { s with r := BitVec.ofNat 18 (s.r.toNat - 1), k := .slot .one })

/-- R186, R187: `if` branches when `t` is zero, `-if` when bit 17 of `t` is clear; `t` is kept (D23,
log 25), and on the other side only the word ends. -/
def Obligations.ConditionalTransfers : Prop :=
  ∀ (s : State) (d : Dest),
    (exec (.ifZero d) s =
      if s.t = 0#18 then .next { s with p := destTarget d, k := .fetch }
      else .next { s with k := .fetch }) ∧
    (exec (.ifPlus d) s =
      if s.t.getLsbD 17 = false then .next { s with p := destTarget d, k := .fetch }
      else .next { s with k := .fetch })

/-! ## ALU -/

/-- R201 to R203: `2*` doubles modulo 2^18, `2/` is the floor of half the signed value, `-` is the
complement; only `t` and the slot change. -/
def Obligations.UnaryResults : Prop :=
  ∀ s : State,
    exec .shl s = .next { s with t := BitVec.ofNat 18 (2 * s.t.toNat), k := s.k.next } ∧
    exec .shr s = .next { s with t := BitVec.ofInt 18 (signed s.t / 2), k := s.k.next } ∧
    exec .inv s = .next { s with t := 0x3FFFF#18 - s.t, k := s.k.next }

/-- R205, R206, R209: `and` and `or` (exclusive) take both operands off the stack and leave the result. -/
def Obligations.LogicResults : Prop :=
  ∀ s : State,
    exec .and s = .next { s with
      t := s.t &&& s.s, s := s.ds.get (s.sp - 1), sp := s.sp - 1, k := s.k.next } ∧
    exec .xor s = .next { s with
      t := s.t ^^^ s.s, s := s.ds.get (s.sp - 1), sp := s.sp - 1, k := s.k.next }

/-- R204, R208: `+` leaves the sum modulo 2^18, `c` added when P9 is set; `c` then becomes the sign of the
exact signed sum (the carry is D24's literal reading, log 26), and is left alone when P9 is clear. -/
def Obligations.AddResult : Prop :=
  ∀ s : State,
    exec .add s = .next { s with
      t := s.t + s.s + (if s.p9 && s.c then 1#18 else 0#18)
      s := s.ds.get (s.sp - 1)
      sp := s.sp - 1
      c := if s.p9 then
             decide (signed s.t + signed s.s + (if s.c then 1 else 0) < 0)
           else s.c
      k := s.k.next }

/-- R208, R307 (D24, log 26): the carry of `+` is the unsigned carry out of bit 17 with both sign bits
exclusive-ored in. -/
def Obligations.CarryAgainstTheUnsignedCarry : Prop :=
  ∀ s t : State, s.p9 = true → exec .add s = .next t →
    t.c = (decide (2 ^ 18 ≤ s.t.toNat + s.s.toNat + s.c.toNat) ^^ s.t.getLsbD 17 ^^ s.s.getLsbD 17)

/-- R200 (D25, log 27; the carry D24, log 26): with `T` the exact sum, or `t` when `a[0]` is 0, `+*` leaves
`floor(T/2)` in `t`, shifts `a` right with the low bit of `T` entering at the top, and writes `c` with the
sign of `T` only when `a[0]` and P9 are set. -/
def Obligations.MulStepResult : Prop :=
  ∀ s : State,
    let T : Int := if s.a.getLsbD 0 then signed s.t + signed s.s + (if s.p9 && s.c then 1 else 0)
      else signed s.t
    exec .mulStep s = .next { s with
      t := BitVec.ofInt 18 (T / 2)
      a := BitVec.ofNat 18 (s.a.toNat / 2 + 2 ^ 17 * (T % 2).toNat)
      c := if s.a.getLsbD 0 && s.p9 then decide (T < 0) else s.c
      k := s.k.next }

/-- R200, its derived property: with P9 clear, `t = 0`, a signed multiplicand in `s` and an unsigned
multiplier in `a`, eighteen `+*` steps leave the 36-bit product in `t:a`; `s`, `c` and the stacks stay.
It rests on D25 (log 27). -/
def Obligations.EighteenMulStepsMultiply : Prop :=
  ∀ s : State, s.p9 = false → s.t = 0#18 →
    ∃ u, execTimes 18 .mulStep s = .next u ∧
      signed u.t * 2 ^ 18 + u.a.toNat = signed s.s * s.a.toNat ∧
      { u with t := s.t, a := s.a, k := s.k } = s

/-! ## Stack and register moves -/

/-- R30, R31: `dpush` puts the old `s` in the cell `sp` named before the increment, and `dpop` reads the
cell the decremented pointer names; the other cells, and all else, stay. -/
def Obligations.DataStackPrimitives : Prop :=
  ∀ (s : State) (v : Word),
    (∀ n, (s.dpush v).ds.get n = if n = s.sp then s.s else s.ds.get n) ∧
    { s.dpush v with ds := s.ds } = { s with sp := s.sp + 1, s := s.t, t := v } ∧
    s.dpop = { s with t := s.s, sp := s.sp - 1, s := s.ds.get (s.sp - 1) }

/-- R32, R33: the same for the return stack, one register shallower. -/
def Obligations.ReturnStackPrimitives : Prop :=
  ∀ (s : State) (v : Word),
    (∀ n, (s.rpush v).rs.get n = if n = s.rp then s.r else s.rs.get n) ∧
    { s.rpush v with rs := s.rs } = { s with rp := s.rp + 1, r := v } ∧
    s.rpop = { s with rp := s.rp - 1, r := s.rs.get (s.rp - 1) }

/-- R34 a, b: whatever was pushed, up to ten pops of the data stack give the newest values back in LIFO
order, and up to nine of the return stack. -/
def Obligations.StacksKeepTenAndNineValues : Prop :=
  ∀ (s : State) (vs : List Word) (n : Nat), n ≤ vs.length →
    (n ≤ 10 → (s.dpushAll vs).dpopMany n = vs.reverse.take n) ∧
    (n ≤ 9 → (s.rpushAll vs).rpopMany n = vs.reverse.take n)

/-- R34 c: popping on and on walks the eight cells again: from the third value on, the values popped
repeat with period 8. -/
def Obligations.PopsRepeatWithPeriodEight : Prop :=
  ∀ (s : State) (m n : Nat), 2 ≤ m → m + 8 < n →
    (s.dpopMany n)[m]? = (s.dpopMany n)[m + 8]?

/-- R34 d: rotating a stack together with its pointer is observed by no step: the next state is the
rotated next state, and a stop is the same stop. -/
def Obligations.StackRotationIsUnobservable : Prop :=
  ∀ (s : State) (n m : BitVec 3), step (s.rotate n m) = mapNext (State.rotate n m) (step s)

/-- R220, R221, R223, R225: `drop`, `dup`, `over` and `.`. -/
def Obligations.StackMoves : Prop :=
  ∀ s : State,
    exec .drop s = .next { s with
      t := s.s, s := s.ds.get (s.sp - 1), sp := s.sp - 1, k := s.k.next } ∧
    exec .dup s = .next { s with
      s := s.t, ds := s.ds.set s.sp s.s, sp := s.sp + 1, k := s.k.next } ∧
    exec .over s = .next { s with
      t := s.s, s := s.t, ds := s.ds.set s.sp s.s, sp := s.sp + 1, k := s.k.next } ∧
    exec .nop s = .next { s with k := s.k.next }

/-- R222, R226 (the data movement is D2, log 29): `push` and `pop` move a word between the stacks. -/
def Obligations.MovesBetweenTheStacks : Prop :=
  ∀ s : State,
    exec .push s = .next { s with
      t := s.s, s := s.ds.get (s.sp - 1), sp := s.sp - 1,
      r := s.t, rs := s.rs.set s.rp s.r, rp := s.rp + 1, k := s.k.next } ∧
    exec .pop s = .next { s with
      t := s.r, s := s.t, ds := s.ds.set s.sp s.s, sp := s.sp + 1,
      r := s.rs.get (s.rp - 1), rp := s.rp - 1, k := s.k.next }

/-- R224, R227, R228: `a` pushes all 18 bits of `a`; `a!` and `b!` pop into `a` and into the 9 bits of
`b`. -/
def Obligations.RegisterMoves : Prop :=
  ∀ s : State,
    exec .readA s = .next { s with
      t := s.a, s := s.t, ds := s.ds.set s.sp s.s, sp := s.sp + 1, k := s.k.next } ∧
    exec .setA s = .next { s with
      a := s.t, t := s.s, s := s.ds.get (s.sp - 1), sp := s.sp - 1, k := s.k.next } ∧
    exec .setB s = .next { s with
      b := BitVec.ofNat 9 s.t.toNat, t := s.s, s := s.ds.get (s.sp - 1), sp := s.sp - 1, k := s.k.next }

/-- R28, R38: only `+`, and `+*` when `a[0]` is 1, read or write `c`, and only while P9 is set: in every
other case an instruction run with another `c` gives the same outcome with that `c`. That `+*` leaves `c`
alone when `a[0]` is 0 is D25 (log 27). -/
def Obligations.OnlyAddAndMulStepUseC : Prop :=
  ∀ (i : Instr) (s : State) (x : Bool),
    ¬(s.p9 = true ∧ (i = .add ∨ (i = .mulStep ∧ s.a.getLsbD 0 = true))) →
    exec i { s with c := x } = mapNext (fun t => { t with c := x }) (exec i s)

/-! ## Memory -/

/-- R62: the router, in numbers: below 0x80 RAM, below 0x100 ROM, each by the low six bits, else I/O. -/
def Obligations.ReadsAreRoutedByAddress : Prop :=
  ∀ (s : State) (addr : Addr),
    (addr.toNat < 0x80 → s.memRead addr = some (s.ram.read (addr.toNat % 64), s)) ∧
    (0x80 ≤ addr.toNat → addr.toNat < 0x100 →
      s.memRead addr = some (s.rom.read (addr.toNat % 64), s)) ∧
    (0x100 ≤ addr.toNat → s.memRead addr = s.ioRead addr)

/-- R64: a store to RAM is read back through both aliases, and every RAM address of another cell reads as
before. -/
def Obligations.StoresAreReadBackThroughBothAliases : Prop :=
  ∀ (s : State) (x : Addr) (v : Word), s.Inv → region x = .ram →
    let u := s.memWrite x v
    u.memRead x = some (v, u) ∧ u.memRead (x ^^^ 0x40#9) = some (v, u) ∧
    ∀ y : Addr, region y = .ram → y.toNat % 64 ≠ x.toNat % 64 →
      u.memRead y = some (s.ram.read (y.toNat % 64), u)

/-- R67, R68: the increment of `p` and of `a` runs through the 128 addresses of the bank and changes no
higher bit; an I/O address stays as it is, which is D7 (log 17). -/
def Obligations.IncrementStaysInItsBank : Prop :=
  (∀ x : BitVec 10, (inc7 x).toNat =
    if x.getLsbD 8 then x.toNat else x.toNat / 128 * 128 + (x.toNat % 128 + 1) % 128) ∧
  (∀ x : BitVec 18, (inc7 x).toNat =
    if x.getLsbD 8 then x.toNat else x.toNat / 128 * 128 + (x.toNat % 128 + 1) % 128)

/-- R240 to R243, R249, in RAM and ROM: `@p`, `@+`, `@b` and `@` push the word at their address and update
their address register as `afterAccess` says; nothing else changes. The set of the four is D2 (log 29). -/
def Obligations.FetchesPushTheWordAtTheirAddress : Prop :=
  ∀ (i : Instr) (s : State) (addr : Addr), fetchAddr i s = some addr →
    (region addr = .ram → exec i s = .next { afterAccess i s with
      t := s.ram.read (cell addr), s := s.t, ds := s.ds.set s.sp s.s, sp := s.sp + 1,
      k := s.k.next }) ∧
    (region addr = .rom → exec i s = .next { afterAccess i s with
      t := s.rom.read (cell addr), s := s.t, ds := s.ds.set s.sp s.s, sp := s.sp + 1,
      k := s.k.next })

/-- R240 to R243, R249, at any address: a read that completes is pushed over the state it leaves, and at a
blocked port the four wait in the same state (log 8). -/
def Obligations.FetchesPushOrWait : Prop :=
  ∀ (i : Instr) (s : State) (addr : Addr), fetchAddr i s = some addr →
    (∀ v u, s.memRead addr = some (v, u) → exec i s = .next { afterAccess i u with
      t := v, s := s.t, ds := s.ds.set s.sp s.s, sp := s.sp + 1, k := s.k.next }) ∧
    (s.blocked addr = true → exec i s = .next s)

/-- R244 to R247, R63, at a RAM address: `!p`, `!+`, `!b` and `!` put `t` in the cell of their address and
in no other, pop, and update their address register; nothing else changes. -/
def Obligations.StoresToRam : Prop :=
  ∀ (i : Instr) (s : State) (addr : Addr), s.Inv → storeAddr i s = some addr → region addr = .ram →
    ∃ u, exec i s = .next u ∧
      { u with ram := s.ram } = { afterAccess i s with
        t := s.s, s := s.ds.get (s.sp - 1), sp := s.sp - 1, k := s.k.next } ∧
      ∀ n, u.ram.read n = if n = cell addr then s.t else s.ram.read n

/-- R63, R93, R249, elsewhere: at a ROM address nothing is stored and the diagnostic is recorded (that the
rest of the store still happens is D16, log 19); at an I/O address the word goes to the selected channels.
A store never waits, and leaves RAM, ROM and `halt` alone here. -/
def Obligations.StoresOutsideRam : Prop :=
  ∀ (i : Instr) (s : State) (addr : Addr), storeAddr i s = some addr →
    (region addr = .rom → exec i s = .next { afterAccess i s with
      t := s.s, s := s.ds.get (s.sp - 1), sp := s.sp - 1, k := s.k.next,
      diags := .romWrite :: s.diags }) ∧
    (region addr = .io → exec i s = .next { afterAccess i s with
      t := s.s, s := s.ds.get (s.sp - 1), sp := s.sp - 1, k := s.k.next,
      env := (s.ioWrite addr s.t).env, diags := (s.ioWrite addr s.t).diags })

/-- R263: an instruction that is neither a fetch nor a store touches no memory, no channel, no diagnostic
and no `halt`, whatever it does. -/
def Obligations.OtherInstructionsMakeNoAccess : Prop :=
  ∀ (i : Instr) (s t : State), fetchAddr i s = none → storeAddr i s = none → exec i s = .next t →
    t.ram = s.ram ∧ t.env = s.env ∧ t.diags = s.diags ∧ t.halt = s.halt

/-! ## The port multiplexer -/

/-- R76 (the polarities of R75): a port address selects, in the order right, down, left, up, the present
neighbours among those its bits 7 to 4 select. -/
def Obligations.SelectionOrderAndAbsence : Prop :=
  ∀ (s : State) (addr : Addr) (x : Xfer), s.cfg.ok = true →
    addr.extractLsb' 0 4 = s.cfg.portPattern →
    (s.select addr x).map Prod.fst =
      ((if addr.getLsbD 7 = true ∧ (s.link .right).isSome then [Dir.right] else []) ++
       (if addr.getLsbD 6 = false ∧ (s.link .down).isSome then [Dir.down] else []) ++
       (if addr.getLsbD 5 = true ∧ (s.link .left).isSome then [Dir.left] else []) ++
       (if addr.getLsbD 4 = false ∧ (s.link .up).isSome then [Dir.up] else [])).map Chan.link

/-- R73 with the default pattern (PRESUMED, log 4) and every neighbour present: the fifteen direction names
and the sixteenth address, which selects nothing. -/
def Obligations.PortAddressesOfTheDirectionNames : Prop :=
  ∀ e ∈ [(0x1D5#9, [Dir.right]), (0x115#9, [.down]), (0x175#9, [.left]), (0x145#9, [.up]),
      (0x195#9, [.right, .down]), (0x1F5#9, [.right, .left]), (0x1C5#9, [.right, .up]),
      (0x135#9, [.down, .left]), (0x105#9, [.down, .up]), (0x165#9, [.left, .up]),
      (0x1B5#9, [.right, .down, .left]), (0x185#9, [.right, .down, .up]),
      (0x1E5#9, [.right, .left, .up]), (0x125#9, [.down, .left, .up]),
      (0x1A5#9, [.right, .down, .left, .up]), (0x155#9, [])],
    (State.reset.select e.1 .read).map Prod.fst = e.2.map Chan.link

/-- R78: the accesses that select nothing (`data` and `io` are D13, log 20; that the pattern is over the
four bits 3:0 is D9, log 30), and what becomes of them: a read yields 0, a write is dropped, the diagnostic
is recorded. -/
def Obligations.UnmappedAccesses : Prop :=
  ∀ s : State, s.cfg.ok = true →
    s.select s.cfg.addrStdout .read = [] ∧ s.select s.cfg.addrStdin .write = [] ∧
    (∀ x, s.select s.cfg.addrData x = [] ∧ s.select s.cfg.addrIo x = []) ∧
    (s.present .stdin = false →
      s.select s.cfg.addrStdin .read = [] ∧ s.select s.cfg.addrStdio .read = []) ∧
    (s.present .stdout = false →
      s.select s.cfg.addrStdout .write = [] ∧ s.select s.cfg.addrStdio .write = []) ∧
    (s.present .tty = false → ∀ x, s.select s.cfg.addrTty x = []) ∧
    (∀ addr x, addr ∉ s.cfg.fixedAddrs → addr.extractLsb' 0 4 ≠ s.cfg.portPattern →
      s.select addr x = []) ∧
    (∀ addr x, addr.extractLsb' 0 4 = s.cfg.portPattern →
      (∀ d, dirSelected addr d = true → s.present (.link d) = false) → s.select addr x = []) ∧
    (∀ addr, addr ≠ s.cfg.addrIo → s.select addr .read = [] →
      s.ioRead addr = some (0#18, { s with diags := .unmapped :: s.diags })) ∧
    (∀ addr v, s.select addr .write = [] →
      s.ioWrite addr v = { s with diags := .unmapped :: s.diags })

/-- R90: the `io` register is the OR of the status bits of what is ready, and has no other bit; an absent
neighbour contributes none; the read changes nothing and never waits. -/
def Obligations.StatusRegisterReportsReadiness : Prop :=
  ∀ s : State, s.cfg.ok = true →
    s.ioRead s.cfg.addrIo = some (s.status, s) ∧
    (∀ d, s.status &&& s.cfg.stRd.get d =
        (if s.rdReady (.link d) then s.cfg.stRd.get d else 0#18) ∧
      s.status &&& s.cfg.stWr.get d = if s.wrReady d then s.cfg.stWr.get d else 0#18) ∧
    (∀ d, s.link d = none →
      s.status &&& s.cfg.stRd.get d = 0#18 ∧ s.status &&& s.cfg.stWr.get d = 0#18) ∧
    (∀ m : Word, (∀ d, m &&& s.cfg.stRd.get d = 0#18 ∧ m &&& s.cfg.stWr.get d = 0#18) →
      s.status &&& m = 0#18)

/-- R95, R80: of the selected channels the first ready one, in selection order, is read, and exactly one
word is taken from it; every other channel keeps its words, and nothing else changes. R98: a character of
the console reads as its number, 0 to 255. -/
def Obligations.ReadTakesOneWordFromTheFirstReadyChannel : Prop :=
  (∀ (s : State) (addr : Addr) (pre post : List (Chan × Word)) (ch : Chan) (m v : Word)
    (rest : List (Answer 18)),
    addr ≠ s.cfg.addrIo → s.select addr .read = pre ++ (ch, m) :: post →
    (∀ e ∈ pre, s.rdReady e.1 = false) → s.pending ch = .word v :: rest →
    s.ioRead addr = some (v, s.takeAnswer ch) ∧ s.TookAnswer ch rest (s.takeAnswer ch)) ∧
  (∀ (s : State) (x : Console) (v : BitVec 8) (rest : List (Answer 8)), s.cfg.ok = true →
    s.env.tty = some x → x.rx = .word v :: rest →
    s.ioRead s.cfg.addrTty = some (BitVec.ofNat 18 v.toNat,
      { s with env := { s.env with tty := some { x with rx := rest } } }))

/-- R96 (the end of stream of a neighbour is D17, log 21; that the failure is taken off the channel is
log 11): a failed read yields 0 and records the failure; the node goes on and nothing else changes. -/
def Obligations.FailedReadYieldsZero : Prop :=
  ∀ (s : State) (addr : Addr) (pre post : List (Chan × Word)) (ch : Chan) (m : Word) (x : Answer 18)
    (rest : List (Answer 18)),
    addr ≠ s.cfg.addrIo → s.select addr .read = pre ++ (ch, m) :: post →
    (∀ e ∈ pre, s.rdReady e.1 = false) → s.pending ch = x :: rest →
    x = .err ∨ (x = .eos ∧ ch ≠ .stdin ∧ ch ≠ .tty) →
    let u := (s.takeAnswer ch).diag (.channelError ch)
    s.ioRead addr = some (0#18, u) ∧
    { s with diags := .channelError ch :: s.diags }.TookAnswer ch rest u

/-- R97 (both host inputs, and the value 0, are D17, log 21; that the end of stream is taken off the
channel is log 11): the end of stream of stdin or of the console sets `halt` and yields 0; no diagnostic is
recorded, and nothing else changes. -/
def Obligations.EndOfHostInputSetsHalt : Prop :=
  ∀ (s : State) (addr : Addr) (pre post : List (Chan × Word)) (ch : Chan) (m : Word)
    (rest : List (Answer 18)),
    addr ≠ s.cfg.addrIo → s.select addr .read = pre ++ (ch, m) :: post →
    (∀ e ∈ pre, s.rdReady e.1 = false) → s.pending ch = .eos :: rest → ch = .stdin ∨ ch = .tty →
    let u := (s.takeAnswer ch).setHalt
    s.ioRead addr = some (0#18, u) ∧ { s with halt := true }.TookAnswer ch rest u

/-- R93: a write reaches every selected neighbour whose link does not fail, once, and no other link.
R264: it records one `channel_error` for each selected channel whose send fails, in selection order (the
log of diagnostics, the newest first, is the model's, log 13). -/
def Obligations.WriteReachesEverySelectedNeighbour : Prop :=
  ∀ (s : State) (addr : Addr) (v : Word),
    (∀ (d : Dir) (l : Link), s.link d = some l →
      (s.ioWrite addr v).link d =
        some (if Chan.link d ∈ (s.select addr .write).map Prod.fst ∧ l.sendErr = false
          then { l with tx := l.tx ++ [v] } else l)) ∧
    (s.select addr .write ≠ [] →
      (s.ioWrite addr v).diags =
        ((((s.select addr .write).map Prod.fst).filter s.sendFails).map Diag.channelError).reverse ++
          s.diags)

/-- R93, R96, R98: a write to stdout, under either of its addresses, sends the word, one to the console its
low eight bits (D18, log 22); a send that fails sends nothing and records the failure. Nothing else
changes. -/
def Obligations.HostWritesSendOrRecordTheFailure : Prop :=
  ∀ (s : State) (v : Word), s.cfg.ok = true →
    (∀ x, s.env.stdout = some x → ∀ addr ∈ [s.cfg.addrStdout, s.cfg.addrStdio],
      s.ioWrite addr v =
        if x.sendErr then { s with diags := .channelError .stdout :: s.diags }
        else { s with env := { s.env with stdout := some { x with tx := x.tx ++ [v] } } }) ∧
    (∀ x, s.env.tty = some x →
      s.ioWrite s.cfg.addrTty v =
        if x.sendErr then { s with diags := .channelError .tty :: s.diags }
        else { s with env := { s.env with tty := some { x with tx := x.tx ++ [v.extractLsb' 0 8] } } })

/-- R42: `halt` is set by a read that meets the end of stream of a host input, and by nothing else; nothing
clears it; and a node whose `halt` is set has no step at a fetch boundary. -/
def Obligations.HaltIsSetOnlyByEndOfStream : Prop :=
  (∀ s t : State, step s = .next t →
    (s.halt = true → t.halt = true) ∧
    (s.halt = false → t.halt = true → ∃ addr ch m rest, s.nextRead = some addr ∧
      (ch = .stdin ∨ ch = .tty) ∧ (ch, m) ∈ s.select addr .read ∧ s.pending ch = .eos :: rest)) ∧
  (∀ s t : State, s.halt = true → s.k = .fetch → step s ≠ .next t)

/-- R263, R264: a diagnostic is recorded only by a step that reads an I/O address, or writes an I/O or ROM
address; a step that reads records one at most. -/
def Obligations.DiagnosticsComeFromIoAndRomAccesses : Prop :=
  ∀ s t : State, step s = .next t → t.diags ≠ s.diags →
    (∃ addr d, s.nextRead = some addr ∧ region addr = .io ∧ t.diags = d :: s.diags) ∨
    (∃ addr, s.nextWrite = some addr ∧ (region addr = .io ∨ region addr = .rom))

/-! ## Invariants -/

/-- R45: every step keeps both memories in canonical form, sixty-four cells each. -/
def Obligations.EveryStepKeepsTheMemoriesCanonical : Prop :=
  ∀ s t : State, s.Inv → step s = .next t → t.Inv

/-- The memories at reset are in canonical form, and so are those of every node at its launch, whatever its
parameters. The form is the model's (log 15). -/
def Obligations.ResetMemoriesAreCanonical : Prop :=
  State.reset.Inv ∧ ∀ x : Params, (State.launch x).Inv

/-- R36, R45, R47 over every run, the environment moving as it likes between steps: ROM, the configuration
and the presence of every channel stay as they were, and the memories stay canonical. -/
def Obligations.RunsKeepRomAndConfiguration : Prop :=
  ∀ (es : List Event) (s t : State), s.Inv → runEvents es s = .next t →
    t.rom = s.rom ∧ t.cfg = s.cfg ∧ (∀ ch, t.present ch = s.present ch) ∧ t.Inv

/-- R6, R47, R291, R292 for every choice of the parameters (their places are the model's, log 5): at launch
every RAM address reads 0 and every ROM address the image, the first step is a fetch, `halt` is clear, the
rest is as the parameters say. The state after reset is the launch of the default parameters, whose values
are the model's where the spec gives none (log 1, log 2, log 6). -/
def Obligations.ResetLeavesZeroedRam : Prop :=
  (∀ x : Params, let u := State.launch x
    (∀ addr : Addr, region addr = .ram → u.memRead addr = some (0#18, u)) ∧
    (∀ addr : Addr, region addr = .rom →
      u.memRead addr = some (x.romImage[addr.toNat % 64]'(Nat.mod_lt _ (by decide)), u)) ∧
    u.k = .fetch ∧ u.halt = false ∧ u.cfg = x.cfg ∧ (∀ ch, u.present ch = x.present.has ch) ∧
    (⟨u.t, u.s, u.r, u.a, u.b, u.i, u.p, u.c, u.ds, u.sp, u.rs, u.rp⟩ : ResetValues) = x.reset) ∧
  State.reset = State.launch .default
end

