-- ==== Sys2Proof/Laws/State.lean ====
section
/-! SUPPORT. What every field holds after every named update of the state: one lemma a field and update, so
that no proof unfolds an update. -/

namespace Sys2Proof.Machine

variable (s : State)


/-! ### `State.launch` (R47) -/

@[simp] theorem State.launch_cfg (x : Params) : (State.launch x).cfg = x.cfg := rfl
@[simp] theorem State.launch_t (x : Params) : (State.launch x).t = x.reset.t := rfl
@[simp] theorem State.launch_s (x : Params) : (State.launch x).s = x.reset.s := rfl
@[simp] theorem State.launch_r (x : Params) : (State.launch x).r = x.reset.r := rfl
@[simp] theorem State.launch_a (x : Params) : (State.launch x).a = x.reset.a := rfl
@[simp] theorem State.launch_b (x : Params) : (State.launch x).b = x.reset.b := rfl
@[simp] theorem State.launch_i (x : Params) : (State.launch x).i = x.reset.i := rfl
@[simp] theorem State.launch_p (x : Params) : (State.launch x).p = x.reset.p := rfl
@[simp] theorem State.launch_c (x : Params) : (State.launch x).c = x.reset.c := rfl
@[simp] theorem State.launch_ds (x : Params) : (State.launch x).ds = x.reset.ds := rfl
@[simp] theorem State.launch_sp (x : Params) : (State.launch x).sp = x.reset.sp := rfl
@[simp] theorem State.launch_rs (x : Params) : (State.launch x).rs = x.reset.rs := rfl
@[simp] theorem State.launch_rp (x : Params) : (State.launch x).rp = x.reset.rp := rfl
@[simp] theorem State.launch_ram (x : Params) : (State.launch x).ram = [] := rfl
@[simp] theorem State.launch_rom (x : Params) : (State.launch x).rom = Memory.ofWords 0 x.romImage.toList := rfl
@[simp] theorem State.launch_k (x : Params) : (State.launch x).k = .fetch := rfl
@[simp] theorem State.launch_halt (x : Params) : (State.launch x).halt = false := rfl
@[simp] theorem State.launch_env (x : Params) : (State.launch x).env = .launch x.present := rfl
@[simp] theorem State.launch_diags (x : Params) : (State.launch x).diags = [] := rfl

/-- A node has the channels its parameters give it. -/
@[simp] theorem State.launch_present (x : Params) (ch : Chan) :
    (State.launch x).present ch = x.present.has ch := by
  cases ch with
  | link d =>
    simp only [State.present, State.link, State.launch_env, Env.launch, Presence.has]
    cases d <;> simp only [PerDir.get] <;> split <;> simp_all
  | stdin => simp only [State.present, State.launch_env, Env.launch, Presence.has]; split <;> simp_all
  | stdout => simp only [State.present, State.launch_env, Env.launch, Presence.has]; split <;> simp_all
  | tty => simp only [State.present, State.launch_env, Env.launch, Presence.has]; split <;> simp_all

/-! ### `State.dpush` (R30) -/

@[simp] theorem State.dpush_cfg (v : Word) : (s.dpush v).cfg = s.cfg := rfl
@[simp] theorem State.dpush_t (v : Word) : (s.dpush v).t = v := rfl
@[simp] theorem State.dpush_s (v : Word) : (s.dpush v).s = s.t := rfl
@[simp] theorem State.dpush_r (v : Word) : (s.dpush v).r = s.r := rfl
@[simp] theorem State.dpush_a (v : Word) : (s.dpush v).a = s.a := rfl
@[simp] theorem State.dpush_b (v : Word) : (s.dpush v).b = s.b := rfl
@[simp] theorem State.dpush_i (v : Word) : (s.dpush v).i = s.i := rfl
@[simp] theorem State.dpush_p (v : Word) : (s.dpush v).p = s.p := rfl
@[simp] theorem State.dpush_c (v : Word) : (s.dpush v).c = s.c := rfl
@[simp] theorem State.dpush_ds (v : Word) : (s.dpush v).ds = s.ds.set s.sp s.s := rfl
@[simp] theorem State.dpush_sp (v : Word) : (s.dpush v).sp = s.sp + 1 := rfl
@[simp] theorem State.dpush_rs (v : Word) : (s.dpush v).rs = s.rs := rfl
@[simp] theorem State.dpush_rp (v : Word) : (s.dpush v).rp = s.rp := rfl
@[simp] theorem State.dpush_ram (v : Word) : (s.dpush v).ram = s.ram := rfl
@[simp] theorem State.dpush_rom (v : Word) : (s.dpush v).rom = s.rom := rfl
@[simp] theorem State.dpush_k (v : Word) : (s.dpush v).k = s.k := rfl
@[simp] theorem State.dpush_halt (v : Word) : (s.dpush v).halt = s.halt := rfl
@[simp] theorem State.dpush_env (v : Word) : (s.dpush v).env = s.env := rfl
@[simp] theorem State.dpush_diags (v : Word) : (s.dpush v).diags = s.diags := rfl

/-! ### `State.dpop` (R31) -/

@[simp] theorem State.dpop_cfg : s.dpop.cfg = s.cfg := rfl
@[simp] theorem State.dpop_t : s.dpop.t = s.s := rfl
@[simp] theorem State.dpop_s : s.dpop.s = s.ds.get (s.sp - 1) := rfl
@[simp] theorem State.dpop_r : s.dpop.r = s.r := rfl
@[simp] theorem State.dpop_a : s.dpop.a = s.a := rfl
@[simp] theorem State.dpop_b : s.dpop.b = s.b := rfl
@[simp] theorem State.dpop_i : s.dpop.i = s.i := rfl
@[simp] theorem State.dpop_p : s.dpop.p = s.p := rfl
@[simp] theorem State.dpop_c : s.dpop.c = s.c := rfl
@[simp] theorem State.dpop_ds : s.dpop.ds = s.ds := rfl
@[simp] theorem State.dpop_sp : s.dpop.sp = s.sp - 1 := rfl
@[simp] theorem State.dpop_rs : s.dpop.rs = s.rs := rfl
@[simp] theorem State.dpop_rp : s.dpop.rp = s.rp := rfl
@[simp] theorem State.dpop_ram : s.dpop.ram = s.ram := rfl
@[simp] theorem State.dpop_rom : s.dpop.rom = s.rom := rfl
@[simp] theorem State.dpop_k : s.dpop.k = s.k := rfl
@[simp] theorem State.dpop_halt : s.dpop.halt = s.halt := rfl
@[simp] theorem State.dpop_env : s.dpop.env = s.env := rfl
@[simp] theorem State.dpop_diags : s.dpop.diags = s.diags := rfl

/-! ### `State.rpush` (R32) -/

@[simp] theorem State.rpush_cfg (v : Word) : (s.rpush v).cfg = s.cfg := rfl
@[simp] theorem State.rpush_t (v : Word) : (s.rpush v).t = s.t := rfl
@[simp] theorem State.rpush_s (v : Word) : (s.rpush v).s = s.s := rfl
@[simp] theorem State.rpush_r (v : Word) : (s.rpush v).r = v := rfl
@[simp] theorem State.rpush_a (v : Word) : (s.rpush v).a = s.a := rfl
@[simp] theorem State.rpush_b (v : Word) : (s.rpush v).b = s.b := rfl
@[simp] theorem State.rpush_i (v : Word) : (s.rpush v).i = s.i := rfl
@[simp] theorem State.rpush_p (v : Word) : (s.rpush v).p = s.p := rfl
@[simp] theorem State.rpush_c (v : Word) : (s.rpush v).c = s.c := rfl
@[simp] theorem State.rpush_ds (v : Word) : (s.rpush v).ds = s.ds := rfl
@[simp] theorem State.rpush_sp (v : Word) : (s.rpush v).sp = s.sp := rfl
@[simp] theorem State.rpush_rs (v : Word) : (s.rpush v).rs = s.rs.set s.rp s.r := rfl
@[simp] theorem State.rpush_rp (v : Word) : (s.rpush v).rp = s.rp + 1 := rfl
@[simp] theorem State.rpush_ram (v : Word) : (s.rpush v).ram = s.ram := rfl
@[simp] theorem State.rpush_rom (v : Word) : (s.rpush v).rom = s.rom := rfl
@[simp] theorem State.rpush_k (v : Word) : (s.rpush v).k = s.k := rfl
@[simp] theorem State.rpush_halt (v : Word) : (s.rpush v).halt = s.halt := rfl
@[simp] theorem State.rpush_env (v : Word) : (s.rpush v).env = s.env := rfl
@[simp] theorem State.rpush_diags (v : Word) : (s.rpush v).diags = s.diags := rfl

/-! ### `State.rpop` (R33) -/

@[simp] theorem State.rpop_cfg : s.rpop.cfg = s.cfg := rfl
@[simp] theorem State.rpop_t : s.rpop.t = s.t := rfl
@[simp] theorem State.rpop_s : s.rpop.s = s.s := rfl
@[simp] theorem State.rpop_r : s.rpop.r = s.rs.get (s.rp - 1) := rfl
@[simp] theorem State.rpop_a : s.rpop.a = s.a := rfl
@[simp] theorem State.rpop_b : s.rpop.b = s.b := rfl
@[simp] theorem State.rpop_i : s.rpop.i = s.i := rfl
@[simp] theorem State.rpop_p : s.rpop.p = s.p := rfl
@[simp] theorem State.rpop_c : s.rpop.c = s.c := rfl
@[simp] theorem State.rpop_ds : s.rpop.ds = s.ds := rfl
@[simp] theorem State.rpop_sp : s.rpop.sp = s.sp := rfl
@[simp] theorem State.rpop_rs : s.rpop.rs = s.rs := rfl
@[simp] theorem State.rpop_rp : s.rpop.rp = s.rp - 1 := rfl
@[simp] theorem State.rpop_ram : s.rpop.ram = s.ram := rfl
@[simp] theorem State.rpop_rom : s.rpop.rom = s.rom := rfl
@[simp] theorem State.rpop_k : s.rpop.k = s.k := rfl
@[simp] theorem State.rpop_halt : s.rpop.halt = s.halt := rfl
@[simp] theorem State.rpop_env : s.rpop.env = s.env := rfl
@[simp] theorem State.rpop_diags : s.rpop.diags = s.diags := rfl

/-! ### `State.advance` (R172) -/

@[simp] theorem State.advance_cfg : s.advance.cfg = s.cfg := rfl
@[simp] theorem State.advance_t : s.advance.t = s.t := rfl
@[simp] theorem State.advance_s : s.advance.s = s.s := rfl
@[simp] theorem State.advance_r : s.advance.r = s.r := rfl
@[simp] theorem State.advance_a : s.advance.a = s.a := rfl
@[simp] theorem State.advance_b : s.advance.b = s.b := rfl
@[simp] theorem State.advance_i : s.advance.i = s.i := rfl
@[simp] theorem State.advance_p : s.advance.p = s.p := rfl
@[simp] theorem State.advance_c : s.advance.c = s.c := rfl
@[simp] theorem State.advance_ds : s.advance.ds = s.ds := rfl
@[simp] theorem State.advance_sp : s.advance.sp = s.sp := rfl
@[simp] theorem State.advance_rs : s.advance.rs = s.rs := rfl
@[simp] theorem State.advance_rp : s.advance.rp = s.rp := rfl
@[simp] theorem State.advance_ram : s.advance.ram = s.ram := rfl
@[simp] theorem State.advance_rom : s.advance.rom = s.rom := rfl
@[simp] theorem State.advance_k : s.advance.k = s.k.next := rfl
@[simp] theorem State.advance_halt : s.advance.halt = s.halt := rfl
@[simp] theorem State.advance_env : s.advance.env = s.env := rfl
@[simp] theorem State.advance_diags : s.advance.diags = s.diags := rfl

/-! ### `State.endWord` (R133) -/

@[simp] theorem State.endWord_cfg : s.endWord.cfg = s.cfg := rfl
@[simp] theorem State.endWord_t : s.endWord.t = s.t := rfl
@[simp] theorem State.endWord_s : s.endWord.s = s.s := rfl
@[simp] theorem State.endWord_r : s.endWord.r = s.r := rfl
@[simp] theorem State.endWord_a : s.endWord.a = s.a := rfl
@[simp] theorem State.endWord_b : s.endWord.b = s.b := rfl
@[simp] theorem State.endWord_i : s.endWord.i = s.i := rfl
@[simp] theorem State.endWord_p : s.endWord.p = s.p := rfl
@[simp] theorem State.endWord_c : s.endWord.c = s.c := rfl
@[simp] theorem State.endWord_ds : s.endWord.ds = s.ds := rfl
@[simp] theorem State.endWord_sp : s.endWord.sp = s.sp := rfl
@[simp] theorem State.endWord_rs : s.endWord.rs = s.rs := rfl
@[simp] theorem State.endWord_rp : s.endWord.rp = s.rp := rfl
@[simp] theorem State.endWord_ram : s.endWord.ram = s.ram := rfl
@[simp] theorem State.endWord_rom : s.endWord.rom = s.rom := rfl
@[simp] theorem State.endWord_k : s.endWord.k = .fetch := rfl
@[simp] theorem State.endWord_halt : s.endWord.halt = s.halt := rfl
@[simp] theorem State.endWord_env : s.endWord.env = s.env := rfl
@[simp] theorem State.endWord_diags : s.endWord.diags = s.diags := rfl

/-! ### `State.branch` (R178) -/

@[simp] theorem State.branch_cfg (d : Dest) : (s.branch d).cfg = s.cfg := rfl
@[simp] theorem State.branch_t (d : Dest) : (s.branch d).t = s.t := rfl
@[simp] theorem State.branch_s (d : Dest) : (s.branch d).s = s.s := rfl
@[simp] theorem State.branch_r (d : Dest) : (s.branch d).r = s.r := rfl
@[simp] theorem State.branch_a (d : Dest) : (s.branch d).a = s.a := rfl
@[simp] theorem State.branch_b (d : Dest) : (s.branch d).b = s.b := rfl
@[simp] theorem State.branch_i (d : Dest) : (s.branch d).i = s.i := rfl
@[simp] theorem State.branch_p (d : Dest) : (s.branch d).p = destTarget d := rfl
@[simp] theorem State.branch_c (d : Dest) : (s.branch d).c = s.c := rfl
@[simp] theorem State.branch_ds (d : Dest) : (s.branch d).ds = s.ds := rfl
@[simp] theorem State.branch_sp (d : Dest) : (s.branch d).sp = s.sp := rfl
@[simp] theorem State.branch_rs (d : Dest) : (s.branch d).rs = s.rs := rfl
@[simp] theorem State.branch_rp (d : Dest) : (s.branch d).rp = s.rp := rfl
@[simp] theorem State.branch_ram (d : Dest) : (s.branch d).ram = s.ram := rfl
@[simp] theorem State.branch_rom (d : Dest) : (s.branch d).rom = s.rom := rfl
@[simp] theorem State.branch_k (d : Dest) : (s.branch d).k = .fetch := rfl
@[simp] theorem State.branch_halt (d : Dest) : (s.branch d).halt = s.halt := rfl
@[simp] theorem State.branch_env (d : Dest) : (s.branch d).env = s.env := rfl
@[simp] theorem State.branch_diags (d : Dest) : (s.branch d).diags = s.diags := rfl

/-! ### `State.diag` (R13) -/

@[simp] theorem State.diag_cfg (d : Diag) : (s.diag d).cfg = s.cfg := rfl
@[simp] theorem State.diag_t (d : Diag) : (s.diag d).t = s.t := rfl
@[simp] theorem State.diag_s (d : Diag) : (s.diag d).s = s.s := rfl
@[simp] theorem State.diag_r (d : Diag) : (s.diag d).r = s.r := rfl
@[simp] theorem State.diag_a (d : Diag) : (s.diag d).a = s.a := rfl
@[simp] theorem State.diag_b (d : Diag) : (s.diag d).b = s.b := rfl
@[simp] theorem State.diag_i (d : Diag) : (s.diag d).i = s.i := rfl
@[simp] theorem State.diag_p (d : Diag) : (s.diag d).p = s.p := rfl
@[simp] theorem State.diag_c (d : Diag) : (s.diag d).c = s.c := rfl
@[simp] theorem State.diag_ds (d : Diag) : (s.diag d).ds = s.ds := rfl
@[simp] theorem State.diag_sp (d : Diag) : (s.diag d).sp = s.sp := rfl
@[simp] theorem State.diag_rs (d : Diag) : (s.diag d).rs = s.rs := rfl
@[simp] theorem State.diag_rp (d : Diag) : (s.diag d).rp = s.rp := rfl
@[simp] theorem State.diag_ram (d : Diag) : (s.diag d).ram = s.ram := rfl
@[simp] theorem State.diag_rom (d : Diag) : (s.diag d).rom = s.rom := rfl
@[simp] theorem State.diag_k (d : Diag) : (s.diag d).k = s.k := rfl
@[simp] theorem State.diag_halt (d : Diag) : (s.diag d).halt = s.halt := rfl
@[simp] theorem State.diag_env (d : Diag) : (s.diag d).env = s.env := rfl
@[simp] theorem State.diag_diags (d : Diag) : (s.diag d).diags = d :: s.diags := rfl

/-! ### `State.setHalt` (R97) -/

@[simp] theorem State.setHalt_cfg : s.setHalt.cfg = s.cfg := rfl
@[simp] theorem State.setHalt_t : s.setHalt.t = s.t := rfl
@[simp] theorem State.setHalt_s : s.setHalt.s = s.s := rfl
@[simp] theorem State.setHalt_r : s.setHalt.r = s.r := rfl
@[simp] theorem State.setHalt_a : s.setHalt.a = s.a := rfl
@[simp] theorem State.setHalt_b : s.setHalt.b = s.b := rfl
@[simp] theorem State.setHalt_i : s.setHalt.i = s.i := rfl
@[simp] theorem State.setHalt_p : s.setHalt.p = s.p := rfl
@[simp] theorem State.setHalt_c : s.setHalt.c = s.c := rfl
@[simp] theorem State.setHalt_ds : s.setHalt.ds = s.ds := rfl
@[simp] theorem State.setHalt_sp : s.setHalt.sp = s.sp := rfl
@[simp] theorem State.setHalt_rs : s.setHalt.rs = s.rs := rfl
@[simp] theorem State.setHalt_rp : s.setHalt.rp = s.rp := rfl
@[simp] theorem State.setHalt_ram : s.setHalt.ram = s.ram := rfl
@[simp] theorem State.setHalt_rom : s.setHalt.rom = s.rom := rfl
@[simp] theorem State.setHalt_k : s.setHalt.k = s.k := rfl
@[simp] theorem State.setHalt_halt : s.setHalt.halt = true := rfl
@[simp] theorem State.setHalt_env : s.setHalt.env = s.env := rfl
@[simp] theorem State.setHalt_diags : s.setHalt.diags = s.diags := rfl

/-! ### `State.setLink` (R80) -/

@[simp] theorem State.setLink_cfg (d : Dir) (l : Link) : (s.setLink d l).cfg = s.cfg := rfl
@[simp] theorem State.setLink_t (d : Dir) (l : Link) : (s.setLink d l).t = s.t := rfl
@[simp] theorem State.setLink_s (d : Dir) (l : Link) : (s.setLink d l).s = s.s := rfl
@[simp] theorem State.setLink_r (d : Dir) (l : Link) : (s.setLink d l).r = s.r := rfl
@[simp] theorem State.setLink_a (d : Dir) (l : Link) : (s.setLink d l).a = s.a := rfl
@[simp] theorem State.setLink_b (d : Dir) (l : Link) : (s.setLink d l).b = s.b := rfl
@[simp] theorem State.setLink_i (d : Dir) (l : Link) : (s.setLink d l).i = s.i := rfl
@[simp] theorem State.setLink_p (d : Dir) (l : Link) : (s.setLink d l).p = s.p := rfl
@[simp] theorem State.setLink_c (d : Dir) (l : Link) : (s.setLink d l).c = s.c := rfl
@[simp] theorem State.setLink_ds (d : Dir) (l : Link) : (s.setLink d l).ds = s.ds := rfl
@[simp] theorem State.setLink_sp (d : Dir) (l : Link) : (s.setLink d l).sp = s.sp := rfl
@[simp] theorem State.setLink_rs (d : Dir) (l : Link) : (s.setLink d l).rs = s.rs := rfl
@[simp] theorem State.setLink_rp (d : Dir) (l : Link) : (s.setLink d l).rp = s.rp := rfl
@[simp] theorem State.setLink_ram (d : Dir) (l : Link) : (s.setLink d l).ram = s.ram := rfl
@[simp] theorem State.setLink_rom (d : Dir) (l : Link) : (s.setLink d l).rom = s.rom := rfl
@[simp] theorem State.setLink_k (d : Dir) (l : Link) : (s.setLink d l).k = s.k := rfl
@[simp] theorem State.setLink_halt (d : Dir) (l : Link) : (s.setLink d l).halt = s.halt := rfl
@[simp] theorem State.setLink_env (d : Dir) (l : Link) : (s.setLink d l).env = { s.env with links := s.env.links.set d (some l) } := rfl
@[simp] theorem State.setLink_diags (d : Dir) (l : Link) : (s.setLink d l).diags = s.diags := rfl

/-! ### `State.bumpP` (R68) -/

@[simp] theorem State.bumpP_cfg : s.bumpP.cfg = s.cfg := rfl
@[simp] theorem State.bumpP_t : s.bumpP.t = s.t := rfl
@[simp] theorem State.bumpP_s : s.bumpP.s = s.s := rfl
@[simp] theorem State.bumpP_r : s.bumpP.r = s.r := rfl
@[simp] theorem State.bumpP_a : s.bumpP.a = s.a := rfl
@[simp] theorem State.bumpP_b : s.bumpP.b = s.b := rfl
@[simp] theorem State.bumpP_i : s.bumpP.i = s.i := rfl
@[simp] theorem State.bumpP_p : s.bumpP.p = inc7 s.p := rfl
@[simp] theorem State.bumpP_c : s.bumpP.c = s.c := rfl
@[simp] theorem State.bumpP_ds : s.bumpP.ds = s.ds := rfl
@[simp] theorem State.bumpP_sp : s.bumpP.sp = s.sp := rfl
@[simp] theorem State.bumpP_rs : s.bumpP.rs = s.rs := rfl
@[simp] theorem State.bumpP_rp : s.bumpP.rp = s.rp := rfl
@[simp] theorem State.bumpP_ram : s.bumpP.ram = s.ram := rfl
@[simp] theorem State.bumpP_rom : s.bumpP.rom = s.rom := rfl
@[simp] theorem State.bumpP_k : s.bumpP.k = s.k := rfl
@[simp] theorem State.bumpP_halt : s.bumpP.halt = s.halt := rfl
@[simp] theorem State.bumpP_env : s.bumpP.env = s.env := rfl
@[simp] theorem State.bumpP_diags : s.bumpP.diags = s.diags := rfl

/-! ### `State.bumpA` (R68) -/

@[simp] theorem State.bumpA_cfg : s.bumpA.cfg = s.cfg := rfl
@[simp] theorem State.bumpA_t : s.bumpA.t = s.t := rfl
@[simp] theorem State.bumpA_s : s.bumpA.s = s.s := rfl
@[simp] theorem State.bumpA_r : s.bumpA.r = s.r := rfl
@[simp] theorem State.bumpA_a : s.bumpA.a = inc7 s.a := rfl
@[simp] theorem State.bumpA_b : s.bumpA.b = s.b := rfl
@[simp] theorem State.bumpA_i : s.bumpA.i = s.i := rfl
@[simp] theorem State.bumpA_p : s.bumpA.p = s.p := rfl
@[simp] theorem State.bumpA_c : s.bumpA.c = s.c := rfl
@[simp] theorem State.bumpA_ds : s.bumpA.ds = s.ds := rfl
@[simp] theorem State.bumpA_sp : s.bumpA.sp = s.sp := rfl
@[simp] theorem State.bumpA_rs : s.bumpA.rs = s.rs := rfl
@[simp] theorem State.bumpA_rp : s.bumpA.rp = s.rp := rfl
@[simp] theorem State.bumpA_ram : s.bumpA.ram = s.ram := rfl
@[simp] theorem State.bumpA_rom : s.bumpA.rom = s.rom := rfl
@[simp] theorem State.bumpA_k : s.bumpA.k = s.k := rfl
@[simp] theorem State.bumpA_halt : s.bumpA.halt = s.halt := rfl
@[simp] theorem State.bumpA_env : s.bumpA.env = s.env := rfl
@[simp] theorem State.bumpA_diags : s.bumpA.diags = s.diags := rfl

/-! ### `State.rotate` (R34 d) -/

@[simp] theorem State.rotate_cfg (n m : BitVec 3) : (s.rotate n m).cfg = s.cfg := rfl
@[simp] theorem State.rotate_t (n m : BitVec 3) : (s.rotate n m).t = s.t := rfl
@[simp] theorem State.rotate_s (n m : BitVec 3) : (s.rotate n m).s = s.s := rfl
@[simp] theorem State.rotate_r (n m : BitVec 3) : (s.rotate n m).r = s.r := rfl
@[simp] theorem State.rotate_a (n m : BitVec 3) : (s.rotate n m).a = s.a := rfl
@[simp] theorem State.rotate_b (n m : BitVec 3) : (s.rotate n m).b = s.b := rfl
@[simp] theorem State.rotate_i (n m : BitVec 3) : (s.rotate n m).i = s.i := rfl
@[simp] theorem State.rotate_p (n m : BitVec 3) : (s.rotate n m).p = s.p := rfl
@[simp] theorem State.rotate_c (n m : BitVec 3) : (s.rotate n m).c = s.c := rfl
@[simp] theorem State.rotate_ds (n m : BitVec 3) : (s.rotate n m).ds = s.ds.rotate n := rfl
@[simp] theorem State.rotate_sp (n m : BitVec 3) : (s.rotate n m).sp = s.sp + n := rfl
@[simp] theorem State.rotate_rs (n m : BitVec 3) : (s.rotate n m).rs = s.rs.rotate m := rfl
@[simp] theorem State.rotate_rp (n m : BitVec 3) : (s.rotate n m).rp = s.rp + m := rfl
@[simp] theorem State.rotate_ram (n m : BitVec 3) : (s.rotate n m).ram = s.ram := rfl
@[simp] theorem State.rotate_rom (n m : BitVec 3) : (s.rotate n m).rom = s.rom := rfl
@[simp] theorem State.rotate_k (n m : BitVec 3) : (s.rotate n m).k = s.k := rfl
@[simp] theorem State.rotate_halt (n m : BitVec 3) : (s.rotate n m).halt = s.halt := rfl
@[simp] theorem State.rotate_env (n m : BitVec 3) : (s.rotate n m).env = s.env := rfl
@[simp] theorem State.rotate_diags (n m : BitVec 3) : (s.rotate n m).diags = s.diags := rfl

/-! ### `State.withFetchWord` (log 14) -/

@[simp] theorem State.withFetchWord_cfg (b w : Nat) : (s.withFetchWord b w).cfg = s.cfg := rfl
@[simp] theorem State.withFetchWord_t (b w : Nat) : (s.withFetchWord b w).t = s.t := rfl
@[simp] theorem State.withFetchWord_s (b w : Nat) : (s.withFetchWord b w).s = s.s := rfl
@[simp] theorem State.withFetchWord_r (b w : Nat) : (s.withFetchWord b w).r = s.r := rfl
@[simp] theorem State.withFetchWord_a (b w : Nat) : (s.withFetchWord b w).a = s.a := rfl
@[simp] theorem State.withFetchWord_b (b w : Nat) : (s.withFetchWord b w).b = s.b := rfl
@[simp] theorem State.withFetchWord_i (b w : Nat) : (s.withFetchWord b w).i = BitVec.ofNat 18 w := rfl
@[simp] theorem State.withFetchWord_p (b w : Nat) : (s.withFetchWord b w).p = s.p := rfl
@[simp] theorem State.withFetchWord_c (b w : Nat) : (s.withFetchWord b w).c = s.c := rfl
@[simp] theorem State.withFetchWord_ds (b w : Nat) : (s.withFetchWord b w).ds = s.ds := rfl
@[simp] theorem State.withFetchWord_sp (b w : Nat) : (s.withFetchWord b w).sp = s.sp := rfl
@[simp] theorem State.withFetchWord_rs (b w : Nat) : (s.withFetchWord b w).rs = s.rs := rfl
@[simp] theorem State.withFetchWord_rp (b w : Nat) : (s.withFetchWord b w).rp = s.rp := rfl
@[simp] theorem State.withFetchWord_ram (b w : Nat) : (s.withFetchWord b w).ram = s.ram := rfl
@[simp] theorem State.withFetchWord_rom (b w : Nat) : (s.withFetchWord b w).rom = s.rom := rfl
@[simp] theorem State.withFetchWord_k (b w : Nat) : (s.withFetchWord b w).k = .slot .one := rfl
@[simp] theorem State.withFetchWord_halt (b w : Nat) : (s.withFetchWord b w).halt = s.halt := rfl
@[simp] theorem State.withFetchWord_env (b w : Nat) : (s.withFetchWord b w).env = s.env := rfl
@[simp] theorem State.withFetchWord_diags (b w : Nat) : (s.withFetchWord b w).diags = s.diags := rfl

end Sys2Proof.Machine
end

