-- ==== Sys2Proof/Laws/Decode.lean ====
section
/-! SUPPORT. The laws of the opcode table and of the fields of a word, and what a decoded instruction is. -/

namespace Sys2Proof

/-- A configuration the spec admits has every mnemonic in its table. -/
theorem Config.mem_opcodes {cfg : Config} (h : cfg.ok = true) (op : Op) : op ∈ cfg.opcodes.toList := by
  have hb : cfg.bijectionOk = true := by
    simp only [Config.ok, Bool.and_eq_true] at h; exact h.1.2
  simp only [Config.bijectionOk, Bool.and_eq_true, List.all_eq_true] at hb
  have : op ∈ Op.all := by cases op <;> decide
  simpa using hb.2 op this

/-- The number of a mnemonic in the table is below 32. -/
theorem Config.idxOf_lt {cfg : Config} (h : cfg.ok = true) (op : Op) :
    cfg.opcodes.toList.idxOf op < 32 := by
  have := List.idxOf_lt_length_of_mem (Config.mem_opcodes h op)
  simpa using this

/-- The table at the number of a mnemonic holds that mnemonic. -/
@[simp] theorem Config.opAt_opcodeOf {cfg : Config} (h : cfg.ok = true) (op : Op) :
    cfg.opAt (cfg.opcodeOf op) = op := by
  have hlt := Config.idxOf_lt h op
  have hn : (cfg.opcodeOf op).toNat = cfg.opcodes.toList.idxOf op := by
    simp [Config.opcodeOf, Nat.mod_eq_of_lt hlt]
  have hget : cfg.opcodes.toList[cfg.opcodes.toList.idxOf op]'(by simpa using hlt) = op :=
    List.getElem_idxOf _
  unfold Config.opAt
  simp only [hn]
  rw [← Vector.getElem_toList]
  exact hget

/-- The number of the mnemonic at a number of the table is that number: no mnemonic stands twice. -/
@[simp] theorem Config.opcodeOf_opAt {cfg : Config} (h : cfg.ok = true) (o : BitVec 5) :
    cfg.opcodeOf (cfg.opAt o) = o := by
  have hb : cfg.bijectionOk = true := by
    simp only [Config.ok, Bool.and_eq_true] at h; exact h.1.2
  simp only [Config.bijectionOk, Bool.and_eq_true, decide_eq_true_eq] at hb
  have hlt : o.toNat < cfg.opcodes.toList.length := by simpa using o.isLt
  have hi : cfg.opcodes.toList.idxOf cfg.opcodes.toList[o.toNat] = o.toNat :=
    List.Nodup.idxOf_getElem hb.1 _ hlt
  unfold Config.opcodeOf Config.opAt
  rw [show cfg.opcodes[o.toNat] = cfg.opcodes.toList[o.toNat] from by simp, hi]
  simp

/-- The `XOR` with `IMASK` bit by bit. -/
@[simp] theorem getLsbD_unmask (cfg : Config) (W : Word) (j : Nat) :
    (unmask cfg W).getLsbD j = (W.getLsbD j ^^ cfg.imask.getLsbD j) := by
  simp [unmask]

/-- A word with a field overwritten, bit by bit. -/
theorem getLsbD_putField (W : Word) (lo n : Nat) (v : BitVec n) (hn : lo + n ≤ 18) (j : Nat) :
    (putField W lo n v).getLsbD j =
      if lo ≤ j ∧ j < lo + n then v.getLsbD (j - lo) else W.getLsbD j := by
  simp only [putField, BitVec.getLsbD_or, BitVec.getLsbD_and, BitVec.getLsbD_not,
    BitVec.getLsbD_shiftLeft, BitVec.getLsbD_setWidth, BitVec.getLsbD_allOnes]
  by_cases hj : j < 18
  · by_cases h1 : j < lo
    · have : ¬(lo ≤ j ∧ j < lo + n) := by omega
      simp [hj, h1, this]
    · by_cases h2 : j < lo + n
      · have a1 : j - lo < n := by omega
        have a2 : j - lo < 18 := by omega
        have : lo ≤ j ∧ j < lo + n := by omega
        simp [hj, h1, this, a1, a2]
      · have a1 : ¬ (j - lo < n) := by omega
        have : ¬(lo ≤ j ∧ j < lo + n) := by omega
        have hv : v.getLsbD (j - lo) = false := BitVec.getLsbD_of_ge v _ (by omega)
        simp [hj, h1, this, a1, hv]
  · have : ¬(lo ≤ j ∧ j < lo + n) := by omega
    simp [hj, this, BitVec.getLsbD_of_ge W j (by omega)]

/-- What a decoded instruction is: the mnemonic at the opcode of the slot, and, where it takes one, the
destination of the slot. -/
theorem decode_op_dest {cfg : Config} {W : Word} {k : Slot} {i : Instr} (h : decode cfg W k = .ok i) :
    i.op = cfg.opAt (opcode cfg W k) ∧
      (if i.op.takesDest then ∃ d, i.dest = some d ∧ destField W k = .ok d else i.dest = none) := by
  unfold decode withDest at h
  split at h <;>
    first
      | (cases h; next ho => exact ⟨ho.symm, by simp [Op.takesDest, Instr.op, Instr.dest]⟩)
      | (next ho =>
          split at h
          · next d hd => cases h; exact ⟨ho.symm, by simp [Op.takesDest, Instr.op, Instr.dest, hd]⟩
          · cases h)

end Sys2Proof
end

