-- ==== Sys2Proof/Laws/Memory.lean ====
section
/-! SUPPORT. The laws of a memory in canonical form and of the cells of a circular stack: read after write,
writes keep the form, equal reads make equal memories. -/

namespace Sys2Proof.Machine

/-! ## Stack cells -/

@[simp] theorem Cells.get_set_self (x : Cells) (n : BitVec 3) (v : Word) : (x.set n v).get n = v := by
  simp [Cells.get, Cells.set]

@[simp] theorem Cells.get_set_of_ne (x : Cells) {n m : BitVec 3} (v : Word) (h : n ≠ m) :
    (x.set n v).get m = x.get m := by
  have h' : n.toNat ≠ m.toNat := fun e => h (BitVec.eq_of_toNat_eq e)
  simp [Cells.get, Cells.set, h']

theorem Cells.get_set (x : Cells) (n m : BitVec 3) (v : Word) :
    (x.set n v).get m = if n = m then v else x.get m := by
  split
  · next h => subst h; simp
  · next h => simp [h]

/-- Two stacks of cells are equal when every pointer names equal cells. -/
theorem Cells.ext_get {x y : Cells} (h : ∀ n, x.get n = y.get n) : x = y := by
  apply Vector.ext
  intro j hj
  have := h (BitVec.ofNat 3 j)
  simpa [Cells.get, Nat.mod_eq_of_lt hj] using this

/-- A rotated stack holds at `j` what the stack held `n` places below. -/
@[simp] theorem Cells.get_rotate (n j : BitVec 3) (x : Cells) : (x.rotate n).get j = x.get (j - n) := by
  simp [Cells.get, Cells.rotate]

/-! ## Memories -/

/-- An unlisted cell reads as `Memory.unlisted`. -/
theorem Memory.read_of_not_mem {m : Memory} {n : Nat} (h : n ∉ m.map Prod.fst) :
    m.read n = Memory.unlisted := by
  induction m with
  | nil => rfl
  | cons e m ih =>
    obtain ⟨x, w⟩ := e
    simp only [List.map_cons, List.mem_cons, not_or] at h
    simp [Memory.read, Ne.symm h.1, ih h.2]

theorem Memory.wf_nil : Memory.wf [] := by decide

/-- The tail of a memory in canonical form is one. -/
theorem Memory.wf_tail {e : Nat × Word} {m : Memory} (h : Memory.wf (e :: m)) : Memory.wf m := by
  obtain ⟨h1, h2⟩ := h
  exact ⟨(List.pairwise_cons.mp h1).2, fun x hx => h2 x (List.mem_cons_of_mem _ hx)⟩

/-- In canonical form the cells after the first have higher numbers. -/
theorem Memory.wf_lt {x : Nat} {w : Word} {m : Memory} (h : Memory.wf ((x, w) :: m)) :
    ∀ y ∈ m.map Prod.fst, x < y :=
  (List.pairwise_cons.mp h.1).1

/-- A cell numbered below the first of a canonical memory is unlisted. -/
theorem Memory.read_below {x n : Nat} {w : Word} {m : Memory} (h : Memory.wf ((x, w) :: m))
    (hn : n < x) : Memory.read ((x, w) :: m) n = Memory.unlisted := by
  apply Memory.read_of_not_mem
  intro hm
  rcases List.mem_cons.mp hm with h1 | h1
  · omega
  · have := Memory.wf_lt h n h1; omega

/-- Reading a cell put in front of lower-free memory. -/
theorem Memory.read_cons {m : Memory} (n : Nat) (v : Word) (h : m.read n = Memory.unlisted) (j : Nat) :
    Memory.read (Memory.cons n v m) j = if n = j then v else m.read j := by
  unfold Memory.cons
  split
  · next hv =>
    split
    · next e => subst e; rw [h, hv]
    · rfl
  · rfl

/-- Everything a write does to what is read: the written cell holds the value, every other cell what
it held. -/
theorem Memory.read_write {m : Memory} (h : m.wf) (n : Nat) (v : Word) (j : Nat) :
    (m.write n v).read j = if n = j then v else m.read j := by
  induction m with
  | nil => exact Memory.read_cons n v rfl j
  | cons e m ih =>
    obtain ⟨x, w⟩ := e
    have ht := Memory.wf_tail h
    unfold Memory.write
    split
    · next hlt => exact Memory.read_cons n v (Memory.read_below h hlt) j
    · split
      · next heq =>
        subst heq
        have hn : Memory.read m n = Memory.unlisted :=
          Memory.read_of_not_mem fun hm => by have := Memory.wf_lt h n hm; omega
        rw [Memory.read_cons n v hn]
        split
        · rfl
        · next hne => simp [Memory.read, hne]
      · next hne =>
        simp only [Memory.read, ih ht]
        split
        · next hx => subst hx; simp [hne]
        · rfl

/-- The numbers of a memory after a cell is put in front. -/
theorem Memory.mem_cons {m : Memory} {n : Nat} {v : Word} {e : Nat × Word}
    (h : e ∈ Memory.cons n v m) : (e = (n, v) ∧ v ≠ Memory.unlisted) ∨ e ∈ m := by
  unfold Memory.cons at h
  split at h
  · exact .inr h
  · next hv => exact (List.mem_cons.mp h).imp (fun he => ⟨he, hv⟩) id

/-- Every entry after a write is the written one or was there before. -/
theorem Memory.mem_write {m : Memory} {n : Nat} {v : Word} {e : Nat × Word}
    (h : e ∈ m.write n v) : (e = (n, v) ∧ v ≠ Memory.unlisted) ∨ e ∈ m := by
  induction m with
  | nil => simpa using Memory.mem_cons h
  | cons f m ih =>
    obtain ⟨x, w⟩ := f
    unfold Memory.write at h
    split at h
    · exact Memory.mem_cons h
    · split at h
      · exact (Memory.mem_cons h).imp id (List.mem_cons_of_mem _)
      · rcases List.mem_cons.mp h with h1 | h1
        · exact .inr (by simp [h1])
        · exact (ih h1).imp id (List.mem_cons_of_mem _)

/-- Putting a cell in front of higher ones keeps the numbers rising. -/
theorem Memory.pairwise_cons_of_lt {m : Memory} {n : Nat} {v : Word}
    (hm : (m.map Prod.fst).Pairwise (· < ·)) (hlt : ∀ y ∈ m.map Prod.fst, n < y) :
    ((Memory.cons n v m).map Prod.fst).Pairwise (· < ·) := by
  unfold Memory.cons
  split
  · exact hm
  · exact List.pairwise_cons.mpr ⟨hlt, hm⟩

/-- A write keeps the numbers rising. -/
theorem Memory.pairwise_write {m : Memory} (n : Nat) (v : Word)
    (hm : (m.map Prod.fst).Pairwise (· < ·)) :
    ((m.write n v).map Prod.fst).Pairwise (· < ·) := by
  induction m with
  | nil => exact Memory.pairwise_cons_of_lt .nil (by simp)
  | cons f m ih =>
    obtain ⟨x, w⟩ := f
    obtain ⟨h1, h2⟩ := List.pairwise_cons.mp hm
    unfold Memory.write
    split
    · next hlt =>
      refine Memory.pairwise_cons_of_lt hm fun y hy => ?_
      rcases List.mem_cons.mp hy with e | e
      · omega
      · have := h1 y e; omega
    · split
      · next heq => exact Memory.pairwise_cons_of_lt h2 fun y hy => heq ▸ h1 y hy
      · next hnlt hne =>
        refine List.pairwise_cons.mpr ⟨fun y hy => ?_, ih h2⟩
        obtain ⟨e, he, rfl⟩ := List.mem_map.mp hy
        rcases Memory.mem_write he with ⟨rfl, _⟩ | hm'
        · simp only; omega
        · exact h1 _ (List.mem_map_of_mem hm')

/-- A write to a cell that exists keeps the canonical form. -/
theorem Memory.write_wf {m : Memory} (h : m.wf) {n : Nat} (hn : n < 64) (v : Word) :
    (m.write n v).wf := by
  refine ⟨Memory.pairwise_write n v h.1, fun e he => ?_⟩
  rcases Memory.mem_write he with ⟨rfl, hv⟩ | hm
  · exact ⟨hn, hv⟩
  · exact h.2 e hm

/-- The cells of a list of words stand from its first number up, and hold no listed zero. -/
theorem Memory.mem_ofWords {ws : List Word} {n : Nat} {e : Nat × Word} (h : e ∈ Memory.ofWords n ws) :
    n ≤ e.1 ∧ e.1 < n + ws.length ∧ e.2 ≠ Memory.unlisted := by
  induction ws generalizing n with
  | nil => cases h
  | cons w ws ih =>
    simp only [List.length_cons]
    unfold Memory.ofWords Memory.cons at h
    split at h
    · obtain ⟨h1, h2, h3⟩ := ih h; exact ⟨by omega, by omega, h3⟩
    · next hw =>
      rcases List.mem_cons.mp h with rfl | h
      · exact ⟨Nat.le_refl _, by simp, hw⟩
      · obtain ⟨h1, h2, h3⟩ := ih h; exact ⟨by omega, by omega, h3⟩

/-- At most 64 words from cell 0 up make a memory in canonical form. -/
theorem Memory.ofWords_wf {ws : List Word} (h : ws.length ≤ 64) : (Memory.ofWords 0 ws).wf := by
  have key : ∀ (ws : List Word) (n : Nat), ((Memory.ofWords n ws).map Prod.fst).Pairwise (· < ·) := by
    intro ws
    induction ws with
    | nil => intro n; exact List.Pairwise.nil
    | cons w ws ih =>
      intro n
      unfold Memory.ofWords Memory.cons
      split
      · exact ih (n + 1)
      · refine List.pairwise_cons.mpr ⟨fun j hj => ?_, ih (n + 1)⟩
        obtain ⟨e, he, rfl⟩ := List.mem_map.mp hj
        exact (Memory.mem_ofWords he).1
  refine ⟨key ws 0, fun e he => ?_⟩
  have := Memory.mem_ofWords he
  exact ⟨by omega, this.2.2⟩

/-- A memory made from words reads as those words. -/
theorem Memory.read_ofWords {ws : List Word} {n j : Nat} (h : j < ws.length) :
    (Memory.ofWords n ws).read (n + j) = ws[j] := by
  induction ws generalizing n j with
  | nil => cases h
  | cons w ws ih =>
    have hnone : (Memory.ofWords (n + 1) ws).read n = Memory.unlisted :=
      Memory.read_of_not_mem fun hm => by
        obtain ⟨e, he, hn⟩ := List.mem_map.mp hm
        have := (Memory.mem_ofWords he).1
        omega
    unfold Memory.ofWords
    rw [Memory.read_cons n w hnone]
    cases j with
    | zero => simp
    | succ j =>
      have := ih (n := n + 1) (j := j) (by simpa using h)
      rw [show n + 1 + j = n + (j + 1) by omega] at this
      simpa using this

/-- In canonical form equal reads make equal memories. -/
theorem Memory.eq_of_read_eq {m m' : Memory} (h : m.wf) (h' : m'.wf)
    (he : ∀ n, m.read n = m'.read n) : m = m' := by
  induction m generalizing m' with
  | nil =>
    cases m' with
    | nil => rfl
    | cons e m' =>
      obtain ⟨x, w⟩ := e
      have h1 := he x
      simp only [Memory.read, if_true] at h1
      exact absurd h1.symm (h'.2 (x, w) (by simp)).2
  | cons e m ih =>
    obtain ⟨x, w⟩ := e
    have hw : w ≠ Memory.unlisted := (h.2 (x, w) (by simp)).2
    cases m' with
    | nil =>
      have h1 := he x
      simp only [Memory.read, if_true] at h1
      exact absurd h1 hw
    | cons e' m' =>
      obtain ⟨x', w'⟩ := e'
      have hw' : w' ≠ Memory.unlisted := (h'.2 (x', w') (by simp)).2
      have hx : x = x' := by
        rcases Nat.lt_trichotomy x x' with hlt | heq | hgt
        · have h1 := he x
          rw [Memory.read_below h' hlt] at h1
          simp only [Memory.read, if_true] at h1
          exact absurd h1 hw
        · exact heq
        · have h1 := he x'
          rw [Memory.read_below h hgt] at h1
          simp only [Memory.read, if_true] at h1
          exact absurd h1.symm hw'
      subst hx
      have hww : w = w' := by simpa [Memory.read] using he x
      subst hww
      congr 1
      refine ih (Memory.wf_tail h) (Memory.wf_tail h') fun n => ?_
      by_cases hn : x = n
      · subst hn
        rw [Memory.read_of_not_mem fun hm => by have := Memory.wf_lt h x hm; omega,
          Memory.read_of_not_mem fun hm => by have := Memory.wf_lt h' x hm; omega]
      · simpa [Memory.read, hn] using he n

/-- A cell of an address exists (R35, R36). -/
theorem cell_lt (addr : Addr) : cell addr < 64 := (addr.extractLsb' 0 6).isLt

end Sys2Proof.Machine
end

