-- ==== Sys2Proof/Laws/Io.lean ====
section
/-! SUPPORT. What the shared operations over channels, the router and the memory can do, said once for
each: which fields they leave alone, and the cases of a read and of a write. -/

namespace Sys2Proof.Machine

variable {s s' : State}

/-! ## Frames of the channel operations -/

/-- `Send` changes the environment and the log of diagnostics at most. -/
theorem State.send_frame (ch : Chan) (v : Word) (s : State) :
    s.send ch v = { s with env := (s.send ch v).env, diags := (s.send ch v).diags } := by
  cases ch <;> simp only [State.send] <;> (repeat' split) <;> rfl

/-- `Recv` changes the environment at most. -/
theorem State.takeAnswer_frame (ch : Chan) (s : State) :
    s.takeAnswer ch = { s with env := (s.takeAnswer ch).env } := by
  cases ch
  case link d => cases h : s.link d <;> simp [State.takeAnswer, State.setLink, h]
  all_goals rfl

/-- What becomes of an answer changes `halt` and the log of diagnostics at most. -/
theorem State.settle_frame (ch : Chan) (x : Answer 18) (s : State) :
    (s.settle ch x).2 =
      { s with halt := (s.settle ch x).2.halt, diags := (s.settle ch x).2.diags } := by
  cases x <;> simp only [State.settle] <;> (repeat' split) <;> rfl

/-- Sending to several channels changes the environment and the log of diagnostics at most. -/
theorem State.sendAll_frame (l : List (Chan × Word)) (v : Word) (s : State) :
    ∃ e d, l.foldl (fun s e => s.send e.1 v) s = { s with env := e, diags := d } := by
  induction l generalizing s with
  | nil => exact ⟨s.env, s.diags, rfl⟩
  | cons x l ih =>
    obtain ⟨e, d, h⟩ := ih (s.send x.1 v)
    refine ⟨e, d, ?_⟩
    rw [List.foldl_cons, h, State.send_frame]

/-- `IoWrite` changes the environment and the log of diagnostics at most. -/
theorem State.ioWrite_frame (addr : Addr) (v : Word) (s : State) :
    ∃ e d, s.ioWrite addr v = { s with env := e, diags := d } := by
  unfold State.ioWrite
  split
  · exact ⟨s.env, _, rfl⟩
  · exact State.sendAll_frame _ v s

/-! ## What a receive and a send do to one channel -/

/-- Receiving takes the oldest answer of its channel. -/
theorem State.takeAnswer_pending (ch : Chan) (s : State) :
    (s.takeAnswer ch).pending ch = (s.pending ch).tail := by
  cases ch with
  | link d =>
    cases h : s.link d with
    | none => simp [State.takeAnswer, State.pending, h]
    | some l =>
      cases d <;>
        simp_all [State.takeAnswer, State.pending, State.link, State.setLink, PerDir.set, PerDir.get]
  | stdin => cases h : s.env.stdin <;> simp [State.takeAnswer, State.pending, h]
  | stdout => rfl
  | tty => cases h : s.env.tty <;> simp [State.takeAnswer, State.pending, h, List.map_tail]

/-- Receiving leaves the answers of every other channel. -/
theorem State.takeAnswer_pending_of_ne {ch c : Chan} (h : c ≠ ch) (s : State) :
    (s.takeAnswer ch).pending c = s.pending c := by
  cases ch with
  | link d =>
    simp only [State.takeAnswer]
    split
    · cases c <;> try rfl
      next d' => cases d <;> cases d' <;> first | exact absurd rfl h | rfl
    · rfl
  | stdin => cases c <;> first | exact absurd rfl h | rfl
  | stdout => rfl
  | tty => cases c <;> first | exact absurd rfl h | rfl

/-- Receiving changes nothing but the answers that wait. -/
theorem State.takeAnswer_quiet (ch : Chan) (s : State) : (s.takeAnswer ch).quiet = s.quiet := by
  cases ch with
  | link d =>
    cases h : s.link d with
    | none => simp [State.takeAnswer, h]
    | some l =>
      cases d <;>
        simp_all [State.takeAnswer, State.quiet, State.link, State.setLink, PerDir.set, PerDir.get]
  | stdin => cases h : s.env.stdin <;> simp [State.takeAnswer, State.quiet, h]
  | stdout => rfl
  | tty => cases h : s.env.tty <;> simp [State.takeAnswer, State.quiet, h]

/-- Sending changes no channel's failing. -/
@[simp] theorem State.send_sendFails (ch c : Chan) (v : Word) (s : State) :
    (s.send ch v).sendFails c = s.sendFails c := by
  cases ch with
  | link d =>
    simp only [State.send]
    split
    · split
      · cases c <;> rfl
      · cases c <;> try rfl
        next d' =>
          cases d <;> cases d' <;>
            simp_all [State.sendFails, State.link, State.setLink, PerDir.set, PerDir.get]
    · rfl
  | stdin => rfl
  | stdout =>
    simp only [State.send]
    split
    · split <;> cases c <;> simp_all [State.sendFails, State.diag, State.link]
    · rfl
  | tty =>
    simp only [State.send]
    split
    · split <;> cases c <;> simp_all [State.sendFails, State.diag, State.link]
    · rfl

/-- Sending records the failure of its channel exactly when that channel fails. -/
theorem State.send_diags (ch : Chan) (v : Word) (s : State) :
    (s.send ch v).diags = if s.sendFails ch then .channelError ch :: s.diags else s.diags := by
  cases ch with
  | link d =>
    cases h : s.link d with
    | none => simp [State.send, State.sendFails, h]
    | some l => cases he : l.sendErr <;> simp [State.send, State.sendFails, State.diag, State.setLink, h, he]
  | stdin => rfl
  | stdout =>
    cases h : s.env.stdout with
    | none => simp [State.send, State.sendFails, h]
    | some x => cases he : x.sendErr <;> simp [State.send, State.sendFails, State.diag, h, he]
  | tty =>
    cases h : s.env.tty with
    | none => simp [State.send, State.sendFails, h]
    | some x => cases he : x.sendErr <;> simp [State.send, State.sendFails, State.diag, h, he]

/-! ## Servicing a read -/

/-- A read is served by the first selected channel that is ready (R94, R95). -/
theorem State.service_cases {l : List (Chan × Word)} {v : Word} (h : s.service l = some (v, s')) :
    ∃ pre ch m post x rest, l = pre ++ (ch, m) :: post ∧ (∀ e ∈ pre, s.pending e.1 = []) ∧
      s.pending ch = x :: rest ∧ (s.takeAnswer ch).settle ch x = (v, s') := by
  induction l with
  | nil => simp [State.service] at h
  | cons e l ih =>
    obtain ⟨ch, m⟩ := e
    unfold State.service at h
    split at h
    · next x rest hp =>
      exact ⟨[], ch, m, l, x, rest, rfl, by simp, hp, Option.some.inj h⟩
    · next hp =>
      obtain ⟨pre, ch', m', post, x, rest, rfl, hpre, hr⟩ := ih h
      refine ⟨(ch, m) :: pre, ch', m', post, x, rest, rfl, ?_, hr⟩
      intro e he
      rcases List.mem_cons.mp he with rfl | he
      · exact hp
      · exact hpre e he

/-- The channels before the first ready one are passed over. -/
theorem State.service_append {pre l : List (Chan × Word)} (h : ∀ e ∈ pre, s.pending e.1 = []) :
    s.service (pre ++ l) = s.service l := by
  induction pre with
  | nil => rfl
  | cons e pre ih =>
    obtain ⟨ch, m⟩ := e
    have hp : s.pending ch = [] := h (ch, m) (by simp)
    simp only [List.cons_append, State.service, hp]
    exact ih fun e he => h e (List.mem_cons_of_mem _ he)

/-- A read waits exactly while no selected channel is ready. -/
theorem State.service_eq_none {l : List (Chan × Word)} :
    s.service l = none ↔ ∀ e ∈ l, s.rdReady e.1 = false := by
  induction l with
  | nil => simp [State.service]
  | cons e l ih =>
    obtain ⟨ch, m⟩ := e
    simp only [State.service, List.forall_mem_cons, State.rdReady] at ih ⊢
    split
    · next x rest hp => simp [hp]
    · next hp => simpa [hp] using ih

/-- Everything a serviced read does to the state, as a frame. -/
theorem State.service_frame {l : List (Chan × Word)} {v : Word} (h : s.service l = some (v, s')) :
    s' = { s with env := s'.env, halt := s'.halt, diags := s'.diags } := by
  obtain ⟨_, ch, _, _, x, _, _, _, _, hs⟩ := State.service_cases h
  have h2 : s' = ((s.takeAnswer ch).settle ch x).2 := by rw [hs]
  rw [h2, State.settle_frame, State.takeAnswer_frame]

/-! ## Reads -/

/-- Every way `IoRead` completes: the status register, nothing selected, a channel that answered. -/
theorem State.ioRead_cases {addr : Addr} {v : Word} (h : s.ioRead addr = some (v, s')) :
    (addr = s.cfg.addrIo ∧ v = s.status ∧ s' = s) ∨
    (addr ≠ s.cfg.addrIo ∧ s.select addr .read = [] ∧ v = 0#18 ∧ s' = s.diag .unmapped) ∨
    (addr ≠ s.cfg.addrIo ∧ s.select addr .read ≠ [] ∧
      s.service (s.select addr .read) = some (v, s')) := by
  unfold State.ioRead at h
  split at h
  · next ha => simp only [Option.some.injEq, Prod.mk.injEq] at h; exact .inl ⟨ha, h.1.symm, h.2.symm⟩
  · next ha =>
    split at h
    · next hs =>
      simp only [Option.some.injEq, Prod.mk.injEq] at h
      exact .inr (.inl ⟨ha, hs, h.1.symm, h.2.symm⟩)
    · next hs => exact .inr (.inr ⟨ha, hs, h⟩)

/-- `IoRead` waits exactly when it selects channels of which none is ready. -/
theorem State.ioRead_eq_none {addr : Addr} :
    s.ioRead addr = none ↔ addr ≠ s.cfg.addrIo ∧ s.select addr .read ≠ [] ∧
      ∀ e ∈ s.select addr .read, s.rdReady e.1 = false := by
  unfold State.ioRead
  split
  · next ha => simp [ha]
  · next ha =>
    split
    · next hs => simp [hs]
    · next hs =>
      rw [State.service_eq_none]
      exact ⟨fun h => ⟨ha, hs, h⟩, fun h => h.2.2⟩

/-- A read changes the environment, `halt` and the log of diagnostics at most. -/
theorem State.memRead_frame {addr : Addr} {v : Word} (h : s.memRead addr = some (v, s')) :
    s' = { s with env := s'.env, halt := s'.halt, diags := s'.diags } := by
  unfold State.memRead at h
  split at h
  · simp only [Option.some.injEq, Prod.mk.injEq] at h; rw [← h.2]
  · simp only [Option.some.injEq, Prod.mk.injEq] at h; rw [← h.2]
  · rcases State.ioRead_cases h with ⟨_, _, rfl⟩ | ⟨_, _, _, rfl⟩ | ⟨_, _, hs⟩
    · rfl
    · rfl
    · exact State.service_frame hs

/-- A read waits exactly at a blocked port. -/
theorem State.memRead_eq_none {addr : Addr} : s.memRead addr = none ↔ s.blocked addr = true := by
  unfold State.memRead State.blocked region
  cases h8 : addr.getLsbD 8
  · cases h7 : addr.getLsbD 7 <;> simp
  · simp [State.ioRead_eq_none, and_assoc]

/-! ## Writes -/

/-- A write changes RAM, the environment and the log of diagnostics at most. -/
theorem State.memWrite_frame (addr : Addr) (v : Word) (s : State) :
    ∃ m e d, s.memWrite addr v = { s with ram := m, env := e, diags := d } := by
  unfold State.memWrite
  split
  · exact ⟨_, s.env, s.diags, rfl⟩
  · exact ⟨s.ram, s.env, _, rfl⟩
  · obtain ⟨e, d, h⟩ := State.ioWrite_frame addr v s
    exact ⟨s.ram, e, d, h⟩

/-- What a write leaves in RAM: the written cell for a RAM address, the same memory otherwise. -/
theorem State.memWrite_ram (addr : Addr) (v : Word) (s : State) :
    (s.memWrite addr v).ram =
      if region addr = .ram then s.ram.write (cell addr) v else s.ram := by
  unfold State.memWrite
  split
  · next h => simp [h]
  · next h => simp [h, State.diag]
  · next h =>
    obtain ⟨e, d, hw⟩ := State.ioWrite_frame addr v s
    simp [h, hw]

/-! ## Presence of channels -/

/-- Receiving keeps every channel where it is. -/
@[simp] theorem State.takeAnswer_present (ch c : Chan) (s : State) :
    (s.takeAnswer ch).present c = s.present c := by
  cases ch with
  | link d =>
    simp only [State.takeAnswer]
    split
    · next l hl =>
      cases c <;> try rfl
      next d' => cases d <;> cases d' <;> simp_all [State.present, State.link, State.setLink, PerDir.set, PerDir.get]
    · rfl
  | stdin => cases c <;> simp [State.takeAnswer, State.present, State.link]
  | stdout => rfl
  | tty => cases c <;> simp [State.takeAnswer, State.present, State.link]

/-- Sending keeps every channel where it is. -/
@[simp] theorem State.send_present (ch c : Chan) (v : Word) (s : State) :
    (s.send ch v).present c = s.present c := by
  cases ch with
  | link d =>
    simp only [State.send]
    split
    · next l hl =>
      split
      · cases c <;> rfl
      · cases c <;> try rfl
        next d' => cases d <;> cases d' <;> simp_all [State.present, State.link, State.setLink, PerDir.set, PerDir.get]
    · rfl
  | stdin => rfl
  | stdout =>
    simp only [State.send]
    split
    · split <;> cases c <;> simp_all [State.present, State.diag, State.link]
    · rfl
  | tty =>
    simp only [State.send]
    split
    · split <;> cases c <;> simp_all [State.present, State.diag, State.link]
    · rfl

/-! ## Shapes of an instruction -/

/-- A read-and-go-on either waits in the same state or goes on with what was read. -/
theorem State.readThen_cases {addr : Addr} {f : Word → State → State} {t : State}
    (h : s.readThen addr f = .next t) :
    (s.memRead addr = none ∧ t = s) ∨ ∃ v s', s.memRead addr = some (v, s') ∧ t = f v s' := by
  unfold State.readThen at h
  split at h
  · next hm => exact .inl ⟨hm, (Host.Outcome.next.inj h).symm⟩
  · next v s' hm => exact .inr ⟨v, s', hm, (Host.Outcome.next.inj h).symm⟩

/-- A read-and-go-on never stops the machine. -/
theorem State.readThen_next (addr : Addr) (f : Word → State → State) :
    ∃ t, s.readThen addr f = .next t := by
  unfold State.readThen
  split
  · exact ⟨_, rfl⟩
  · exact ⟨_, rfl⟩

end Sys2Proof.Machine
end

