-- ==== Sys2Proof/Laws/PerInstr.lean ====
section
/-! SUPPORT. Statements made instruction by instruction. -/

namespace Sys2Proof.Laws

/-- An instruction is the one that has its mnemonic and its destination. -/
def OpAndDest.Statement (i : Instr) : Prop := ∀ j : Instr, j.op = i.op → j.dest = i.dest → j = i

theorem OpAndDest.ret : OpAndDest.Statement .ret := by
  intro j; cases j <;> simp [Instr.op]

theorem OpAndDest.ex : OpAndDest.Statement .ex := by
  intro j; cases j <;> simp [Instr.op]

theorem OpAndDest.jump (d : Dest) : OpAndDest.Statement (.jump d) := by
  intro j; cases j <;> simp [Instr.op, Instr.dest]

theorem OpAndDest.call (d : Dest) : OpAndDest.Statement (.call d) := by
  intro j; cases j <;> simp [Instr.op, Instr.dest]

theorem OpAndDest.unext : OpAndDest.Statement .unext := by
  intro j; cases j <;> simp [Instr.op]

theorem OpAndDest.next (d : Dest) : OpAndDest.Statement (.next d) := by
  intro j; cases j <;> simp [Instr.op, Instr.dest]

theorem OpAndDest.ifZero (d : Dest) : OpAndDest.Statement (.ifZero d) := by
  intro j; cases j <;> simp [Instr.op, Instr.dest]

theorem OpAndDest.ifPlus (d : Dest) : OpAndDest.Statement (.ifPlus d) := by
  intro j; cases j <;> simp [Instr.op, Instr.dest]

theorem OpAndDest.fetchP : OpAndDest.Statement .fetchP := by
  intro j; cases j <;> simp [Instr.op]

theorem OpAndDest.fetchPlus : OpAndDest.Statement .fetchPlus := by
  intro j; cases j <;> simp [Instr.op]

theorem OpAndDest.fetchB : OpAndDest.Statement .fetchB := by
  intro j; cases j <;> simp [Instr.op]

theorem OpAndDest.fetchA : OpAndDest.Statement .fetchA := by
  intro j; cases j <;> simp [Instr.op]

theorem OpAndDest.storeP : OpAndDest.Statement .storeP := by
  intro j; cases j <;> simp [Instr.op]

theorem OpAndDest.storePlus : OpAndDest.Statement .storePlus := by
  intro j; cases j <;> simp [Instr.op]

theorem OpAndDest.storeB : OpAndDest.Statement .storeB := by
  intro j; cases j <;> simp [Instr.op]

theorem OpAndDest.storeA : OpAndDest.Statement .storeA := by
  intro j; cases j <;> simp [Instr.op]

theorem OpAndDest.mulStep : OpAndDest.Statement .mulStep := by
  intro j; cases j <;> simp [Instr.op]

theorem OpAndDest.shl : OpAndDest.Statement .shl := by
  intro j; cases j <;> simp [Instr.op]

theorem OpAndDest.shr : OpAndDest.Statement .shr := by
  intro j; cases j <;> simp [Instr.op]

theorem OpAndDest.inv : OpAndDest.Statement .inv := by
  intro j; cases j <;> simp [Instr.op]

theorem OpAndDest.add : OpAndDest.Statement .add := by
  intro j; cases j <;> simp [Instr.op]

theorem OpAndDest.and : OpAndDest.Statement .and := by
  intro j; cases j <;> simp [Instr.op]

theorem OpAndDest.xor : OpAndDest.Statement .xor := by
  intro j; cases j <;> simp [Instr.op]

theorem OpAndDest.drop : OpAndDest.Statement .drop := by
  intro j; cases j <;> simp [Instr.op]

theorem OpAndDest.dup : OpAndDest.Statement .dup := by
  intro j; cases j <;> simp [Instr.op]

theorem OpAndDest.pop : OpAndDest.Statement .pop := by
  intro j; cases j <;> simp [Instr.op]

theorem OpAndDest.over : OpAndDest.Statement .over := by
  intro j; cases j <;> simp [Instr.op]

theorem OpAndDest.readA : OpAndDest.Statement .readA := by
  intro j; cases j <;> simp [Instr.op]

theorem OpAndDest.nop : OpAndDest.Statement .nop := by
  intro j; cases j <;> simp [Instr.op]

theorem OpAndDest.push : OpAndDest.Statement .push := by
  intro j; cases j <;> simp [Instr.op]

theorem OpAndDest.setB : OpAndDest.Statement .setB := by
  intro j; cases j <;> simp [Instr.op]

theorem OpAndDest.setA : OpAndDest.Statement .setA := by
  intro j; cases j <;> simp [Instr.op]

end Sys2Proof.Laws
end

