-- ==== Sys2Proof/Laws/Step.lean ====
section
/-! SUPPORT. What one step can do: the cases of `step`, of a fetch step and of the two shapes of a memory
instruction. -/

namespace Sys2Proof.Machine

variable {s t : State}

/-- Every way a step answers a next state: a fetch step of a node that has not stopped, or the
instruction decoded from the current slot. -/
theorem step_cases (h : step s = .next t) :
    s.cfg.ok = true ∧ ((s.k = .fetch ∧ s.halt = false ∧ fetchStep s = .next t) ∨
      ∃ k i, s.k = .slot k ∧ decode s.cfg s.i k = .ok i ∧ exec i s = .next t) := by
  unfold step at h
  split at h
  · next hc =>
    refine ⟨hc, ?_⟩
    split at h
    · next hk =>
      refine .inl ⟨hk, ?_, h⟩
      cases hh : s.halt
      · rfl
      · simp [fetchStep, hh] at h
    · next k hk =>
      unfold slotStep at h
      split at h
      · next i hd => exact .inr ⟨k, i, hk, hd, h⟩
      · cases h
  · cases h

/-- Every way a fetch step answers a next state: held in the same state, or with the word read. -/
theorem fetchStep_cases (h : fetchStep s = .next t) :
    s.halt = false ∧ ((s.memRead s.addrP = none ∧ t = s) ∨
      ∃ w u, s.memRead s.addrP = some (w, u) ∧
        t = { u with p := inc7 u.p, i := w, k := if u.halt then .fetch else .slot .one }) := by
  unfold fetchStep at h
  split at h
  · cases h
  · next hh =>
    refine ⟨by simpa using hh, ?_⟩
    rcases State.readThen_cases h with h1 | ⟨w, u, hm, ht⟩
    · exact .inl h1
    · exact .inr ⟨w, u, hm, ht⟩

/-- Every way a fetch instruction answers: held in the same state, or the word pushed. -/
theorem State.fetchVia_cases {addr : Addr} {bump : State → State}
    (h : s.fetchVia addr bump = .next t) :
    (s.memRead addr = none ∧ t = s) ∨
      ∃ v u, s.memRead addr = some (v, u) ∧ t = ((bump u).dpush v).advance :=
  State.readThen_cases h

/-- A fetch instruction whose read completes. -/
theorem State.fetchVia_of_read {addr : Addr} {bump : State → State} {v : Word} {u : State}
    (h : s.memRead addr = some (v, u)) :
    s.fetchVia addr bump = .next ((bump u).dpush v).advance := by
  simp [State.fetchVia, State.readThen, h]

/-- A fetch instruction at a blocked port waits. -/
theorem State.fetchVia_of_blocked {addr : Addr} {bump : State → State}
    (h : s.memRead addr = none) : s.fetchVia addr bump = .next s := by
  simp [State.fetchVia, State.readThen, h]

/-- Every address is in one region, told by its bits 8 and 7. -/
theorem region_cases (addr : Addr) :
    (region addr = .ram ∧ addr.getLsbD 8 = false ∧ addr.getLsbD 7 = false) ∨
    (region addr = .rom ∧ addr.getLsbD 8 = false ∧ addr.getLsbD 7 = true) ∨
    (region addr = .io ∧ addr.getLsbD 8 = true) := by
  unfold region
  cases addr.getLsbD 8 <;> cases addr.getLsbD 7 <;> simp

end Sys2Proof.Machine
end

