-- ==== Sys2Proof/Tests/Slice0.lean ====
section
/-! SUPPORT. Tests with values from spec/95_test_vectors.md, spec/opcode_table.json or hand calculation
from the rules, and for every obligation with hypotheses a state and operands that meet them. -/

namespace Sys2Proof.Tests

open Sys2Proof Sys2Proof.Machine

/-! ## Helpers -/

/-- The start state of section 2.4 of the vectors, about to run slot 1, with `p` = 0x205 (P9 set) but where
a test says otherwise: `t`..`x4` = 1, 2, 3, 4; `r` = 7 over 9. -/
def start : State :=
  { State.reset with
    t := 1, s := 2, ds := #v[0, 0, 0, 0, 0, 0, 4, 3], r := 7, rs := #v[0, 0, 0, 0, 0, 0, 0, 9],
    a := 0x155, b := 0xAA, p := 0x205, k := .slot .one }

/-- A view of the next state of an outcome. -/
def view {α : Type} (f : State → α) : Host.Outcome State Fault Refusal → Option α
  | .next s => some (f s)
  | _ => none

/-- The stop of an outcome, where it is one. -/
def stopOf : Host.Outcome State Fault Refusal → Option (Fault ⊕ Refusal)
  | .next _ => none
  | .fault f => some (.inl f)
  | .refused r => some (.inr r)

/-- The top four of the data stack. -/
def four (s : State) : List Word := [s.t, s.s, s.ds.get (s.sp - 1), s.ds.get (s.sp - 2)]

/-- The top two of the return stack. -/
def two (s : State) : List Word := [s.r, s.rs.get (s.rp - 1)]

/-- A link with words to receive. -/
def link (ws : List (Answer 18)) : Option Link := some { Link.idle with rx := ws }

/-- A node with the given links in the order right, down, left, up. -/
def node (x : PerDir (Option Link)) (s : State) : State := { s with env := { s.env with links := x } }

/-- The top of the address `b` of a state. -/
def atB (x : BitVec 9) (s : State) : State := { s with b := x }

/-- Whether an outcome is a next state. -/
def isNext : Host.Outcome State Fault Refusal → Bool
  | .next _ => true
  | _ => false

/-! ## Words and parameters -/

/-- Bits are numbered from 17, the most significant, down to 0; `1B600` is `-if:200`. -/
theorem test_bit_numbering : (0x20000#18).getLsbD 17 = true ∧ (0x00001#18).getLsbD 0 = true ∧
    (0x1B600#18).extractLsb' 13 5 = 0x0D ∧ (0x1B600#18).extractLsb' 0 10 = 0x200 := by decide
/-- A node launched as in P6, with only a right neighbour, and with one word in its ROM. -/
theorem test_launch :
    let u := State.launch { Params.default with
      romImage := (Vector.replicate 64 0).set 5 0x321
      reset := { ResetValues.zero with p := 0x1D5 }
      present := ⟨⟨true, false, false, false⟩, false, false, false⟩ }
    u.rom = [(5, 0x321)] ∧ (u.memRead 0x0C5).map Prod.fst = some 0x321 ∧ u.held = true ∧
    (u.select 0x1A5 .read).map Prod.fst = [.link .right] ∧ u.present .tty = false := by decide

/-! ## WellFormed and the configuration: one ill-formed term for each check -/

theorem test_wf_refuses_wrong_destination_width :
    (Instr.jump (.slot2 0x34)).wf Config.default .one = false ∧
    (Instr.next (.slot3 1)).destFits .four = false := by decide
theorem test_wf_refuses_opcode_in_slot4 : Instr.drop.wf Config.default .four = false ∧
    Instr.drop.opcodeFits Config.default .four = false ∧ Instr.dup.wf Config.default .four = true := by decide
theorem test_default_config_is_admitted : Config.default.ok = true := by decide
theorem test_config_refuses_equal_addresses :
    { Config.default with addrData := 0x15D }.addrsOk = false := by decide
theorem test_config_refuses_address_outside_io :
    { Config.default with addrData := 0x041 }.addrsOk = false := by decide
theorem test_config_refuses_address_on_port :
    { Config.default with addrTty := 0x1A5 }.addrsOk = false := by decide
theorem test_config_refuses_shared_status_bit :
    { Config.default with stRd := ⟨0x8000, 0x4000, 0x1000, 0x400⟩ }.statusOk = false := by decide
theorem test_config_refuses_wide_status_mask :
    { Config.default with stRd := ⟨0x30000, 0x4000, 0x1000, 0x400⟩ }.statusOk = false := by decide
theorem test_config_refuses_double_opcode :
    { Config.default with opcodes := Config.default.opcodes.set 0x1F .drop }.bijectionOk = false := by decide
theorem test_config_refuses_jump_in_slot4 :
    { Config.default with opcodes := (Config.default.opcodes.set 2 .unext).set 4 .jump }.slot4Ok = false := by
  decide
theorem test_config_refuses_return_not_zero :
    { Config.default with opcodes := (Config.default.opcodes.set 0 .dup).set 0x18 .ret }.slot4Ok = false := by
  decide
theorem test_config_refuses_nop_not_multiple_of_four :
    { Config.default with opcodes := (Config.default.opcodes.set 0x1C .setA).set 0x1F .nop }.slot4Ok = false := by
  decide
theorem test_bad_config_steps_to_refusal :
    stopOf (step { State.reset with cfg := { Config.default with addrData := 0x15D } }) =
      some (.inr .badConfig) := by
  decide

/-! ## Decoding: the match words of spec/opcode_table.json, slot 1 -/

theorem test_decode_control :
    [0x14000, 0x16000, 0x10000, 0x12000, 0x1C000, 0x1E000, 0x18000, 0x1A000].map (decodeTableWord 24) =
      [some .ret, some .ex, some (.jump (.slot1 0)), some (.call (.slot1 0)), some .unext,
       some (.next (.slot1 0)), some (.ifZero (.slot1 0)), some (.ifPlus (.slot1 0))] := by decide
theorem test_decode_memory :
    [0x04000, 0x06000, 0x00000, 0x02000, 0x0C000, 0x0E000, 0x08000, 0x0A000].map (decodeTableWord 24) =
      [some .fetchP, some .fetchPlus, some .fetchB, some .fetchA, some .storeP, some .storePlus,
       some .storeB, some .storeA] := by decide
theorem test_decode_alu :
    [0x34000, 0x36000, 0x30000, 0x32000, 0x3C000, 0x3E000, 0x38000].map (decodeTableWord 24) =
      [some .mulStep, some .shl, some .shr, some .inv, some .add, some .and, some .xor] := by decide
theorem test_decode_stack :
    [0x3A000, 0x24000, 0x26000, 0x20000, 0x22000, 0x2C000, 0x2E000, 0x28000, 0x2A000].map
        (decodeTableWord 24) =
      [some .drop, some .dup, some .pop, some .over, some .readA, some .nop, some .push, some .setB,
       some .setA] := by decide
/-- The `slot2` and `slot3` patterns of `jump` and `call` in the table, with a destination. -/
theorem test_decode_later_slots :
    decode Config.default 0x01734 .two = .ok (.jump (.slot2 0x34)) ∧
    decode Config.default 0x00045 .three = .ok (.jump (.slot3 5)) ∧
    decode Config.default 0x0164F .two = .ok (.call (.slot2 0x4F)) ∧
    decode Config.default 0x0004F .three = .ok (.call (.slot3 7)) := by decide
/-- The decode table of section 2.1 of the vectors. -/
theorem test_decode_vectors :
    slots.map (decode Config.default 0x3FFFF) = [.ok .and, .ok .fetchB, .ok .and, .ok .fetchP] ∧
    slots.map (decode Config.default 0x15555) = [.ok .ret, .ok .ret, .ok .ret, .ok .ret] ∧
    slots.map (decode Config.default 0x2AAAA) = [.ok .setA, .ok .setA, .ok .setA, .ok .nop] ∧
    slots.map (decode Config.default 0x00155) = [.ok .fetchB, .ok .add, .ok .ret, .ok .ret] ∧
    decode Config.default 0x12345 .one = .ok (.call (.slot1 0x345)) := by decide
theorem test_encode_words :
    encodeInto Config.default .one (.jump (.slot1 0x012)) 0x11400 = 0x11412 ∧
    encode Config.default .one .dup = 0x24000 ∧ encode Config.default .four .nop = 0x00002 := by decide
theorem test_no_word_above_18_bits : decodeTableWord 24 0x40000 = none := by decide

/-! ## The assembler -/

theorem test_assemble_words :
    assemble Config.default "dup over + ." = .word 0x24FF2 false ∧
    assemble Config.default "if:0a +" = .word 0x1940A false ∧
    assemble Config.default ". jump:34" = .word 0x2D734 false ∧
    assemble Config.default "next 1d5" = .word 0x1F5D5 false := by decide
theorem test_assemble_values_and_diagnostics :
    assemble Config.default "rdlu" = .word 0x001A5 false ∧
    assemble Config.default "0a" = .word 0x0000A false ∧
    assemble Config.default "a" = .word 0x229B2 false ∧
    assemble Config.default "2* 2/ - and" = .word 0x367C8 true := by decide

/-! ## Instructions: rows of sections 2.2 to 2.5 of the vectors -/

theorem test_ret : view (fun t => (t.p, t.r, t.rp, t.k))
    (exec .ret { start with r := 0x2A5 }) = some (0x2A5, 9, 7, .fetch) := by decide
theorem test_ex : view (fun t => (t.p, t.r, t.rp, t.k))
    (exec .ex { start with p := 0x210, r := 0x3FFFF }) = some (0x3FF, 0x210, 0, .fetch) := by decide
theorem test_jump : view (fun t => (t.p, t.k)) (exec (.jump (.slot2 0x34)) start) = some (0x34, .fetch) := by
  decide
theorem test_call : view (fun t => (t.p, two t, t.rp, t.k))
    (exec (.call (.slot3 7)) { start with p := 0x2F0, r := 5 }) = some (7, [0x2F0, 5], 1, .fetch) := by decide
theorem test_unext_loops : view (fun t => (t.r, t.p, t.k))
    (exec .unext { start with r := 3, k := .slot .four }) = some (2, 0x205, .slot .one) := by decide
theorem test_unext_falls_through : view (fun t => (t.r, t.rp, t.k))
    (exec .unext { start with r := 0 }) = some (9, 7, .slot .two) := by decide
theorem test_next_loops : view (fun t => (t.r, t.p, t.k))
    (exec (.next (.slot1 3)) { start with r := 0x3FFFF }) = some (0x3FFFE, 3, .fetch) := by decide
theorem test_next_falls_through : view (fun t => (t.r, t.p, t.rp, t.k))
    (exec (.next (.slot1 3)) { start with r := 0, p := 0x20 }) = some (9, 0x20, 7, .fetch) := by decide
theorem test_if_taken : view (fun t => (t.p, t.t, t.s, t.k))
    (exec (.ifZero (.slot1 0x0A)) { start with t := 0, p := 0x21 }) = some (0x0A, 0, 2, .fetch) := by decide
theorem test_if_not_taken : view (fun t => (t.p, t.k))
    (exec (.ifZero (.slot2 0x80)) { start with t := 0x20000, p := 0x305 }) = some (0x305, .fetch) := by decide
theorem test_minus_if_taken : view (fun t => (t.p, t.t))
    (exec (.ifPlus (.slot1 0x200)) { start with t := 0x1FFFF }) = some (0x200, 0x1FFFF) := by decide
theorem test_minus_if_not_taken : view (fun t => (t.p, t.k))
    (exec (.ifPlus (.slot1 0x200)) { start with t := 0x20000, p := 0x20 }) = some (0x20, .fetch) := by decide

/-- `@p` at 0x27F reads RAM cell 0x3F and wraps to 0x200. -/
theorem test_fetchP : view (fun t => (t.t, t.s, t.p))
    (exec .fetchP { start with p := 0x27F, ram := [(0x3F, 0x55)] }) = some (0x55, 1, 0x200) := by decide
theorem test_fetchPlus : view (fun t => (t.t, t.a))
    (exec .fetchPlus { start with a := 0x2023F, ram := [(0x3F, 0x111)] }) = some (0x111, 0x20240) := by decide
theorem test_fetchB_status : view (fun t => (t.t, t.b))
    (exec .fetchB (node ⟨link [.word 5], none, none, none⟩ (atB 0x15D start))) = some (0x10000, 0x15D) := by
  decide
theorem test_fetchA : view (fun t => (four t, t.a))
    (exec .fetchA { start with a := 0x85, rom := [(5, 0x321)] }) = some ([0x321, 1, 2, 3], 0x85) := by decide
theorem test_storeP_to_rom : view (fun t => (t.rom, t.ram, t.p, t.t, t.diags))
    (exec .storeP { start with p := 0x0FF }) = some ([], [], 0x080, 2, [.romWrite]) := by decide
theorem test_storePlus : view (fun t => (t.ram.read 0x3F, t.a, t.t))
    (exec .storePlus { start with a := 0x7F }) = some (1, 0, 2) := by decide
theorem test_storeB_two_neighbours : view (fun t =>
      ((t.link .right).map Link.tx, t.link .down, (t.link .left).map Link.tx, t.t))
    (exec .storeB (node ⟨link [], none, link [], link []⟩ { start with b := 0x1B5, t := 0x42 })) =
    some (some [0x42], none, some [0x42], 2) := by decide
theorem test_storeA : view (fun t => ((t.memRead 0x060).map Prod.fst, t.a, four t))
    (exec .storeA { start with a := 0x20, t := 0x2AAAA }) =
    some (some 0x2AAAA, 0x20, [2, 3, 4, 0]) := by decide
theorem test_storeA_to_io_register : view (fun t => (t.diags, t.t, t.ram))
    (exec .storeA { start with a := 0x15D }) = some ([.unmapped], 2, []) := by decide

theorem test_mulStep_carry : view (fun t => (t.t, t.a, t.c, t.s))
    (exec .mulStep { start with t := 0x20000, s := 0x20000, a := 1 }) =
    some (0x20000, 0, true, 0x20000) := by decide
theorem test_mulStep_no_add : view (fun t => (t.t, t.a, t.c))
    (exec .mulStep { start with t := 3, s := 4, a := 0x20000, c := true }) =
    some (1, 0x30000, true) := by decide
theorem test_shl : view (four) (exec .shl { start with t := 0x2AAAA }) = some [0x15554, 2, 3, 4] := by decide
theorem test_shr : view State.t (exec .shr { start with t := 0x2AAAA }) = some 0x35555 ∧
    view State.t (exec .shr { start with t := 0x15555 }) = some 0x0AAAA := by decide
theorem test_inv : view State.t (exec .inv { start with t := 0x1FFFF }) = some 0x20000 := by decide
theorem test_add_extended : view (fun t => (four t, t.c))
    (exec .add { start with t := 3, s := 0x3FFFB }) = some ([0x3FFFE, 3, 4, 0], true) := by decide
theorem test_add_plain : view (fun t => (t.t, t.c))
    (exec .add { start with p := 0x11, t := 0x20000, s := 0x20000, c := true }) = some (0, true) := by decide
theorem test_and : view (four) (exec .and { start with t := 0x3C3C3, s := 0x0FF0F }) =
    some [0x0C303, 3, 4, 0] := by decide
theorem test_xor : view (four) (exec .xor { start with t := 0x3C3C3, s := 0x0FF0F }) =
    some [0x33CCC, 3, 4, 0] := by decide

theorem test_drop : view four (exec .drop start) = some [2, 3, 4, 0] := by decide
theorem test_dup : view four (exec .dup start) = some [1, 1, 2, 3] := by decide
theorem test_over : view four (exec .over start) = some [2, 1, 2, 3] := by decide
theorem test_pop : view (fun t => (four t, t.r, t.rp)) (exec .pop start) = some ([7, 1, 2, 3], 9, 7) := by
  decide
theorem test_push : view (fun t => (four t, two t, t.rp)) (exec .push start) =
    some ([2, 3, 4, 0], [1, 7], 1) := by decide
theorem test_readA : view (fun t => (four t, t.a)) (exec .readA start) = some ([0x155, 1, 2, 3], 0x155) := by
  decide
theorem test_nop : view id (exec .nop start) = some { start with k := .slot .two } := by decide
theorem test_setB : view (fun t => (t.b, four t)) (exec .setB { start with t := 0x3FFFF }) =
    some (0x1FF, [2, 3, 4, 0]) := by decide
theorem test_setA : view (fun t => (t.a, four t)) (exec .setA { start with t := 0x3FFFF }) =
    some (0x3FFFF, [2, 3, 4, 0]) := by decide

/-! ## Steps -/

theorem test_fetch_step : view (fun t => (t.i, t.p, t.k))
    (step { State.reset with p := 0x27F, ram := [(0x3F, 0x2C9B2)] }) =
    some (0x2C9B2, 0x200, .slot .one) := by decide
theorem test_fetch_from_a_silent_port_is_held :
    view id (step { State.reset with p := 0x1D5 }) = some { State.reset with p := 0x1D5 } := by decide
theorem test_halted_node_stops : stopOf (step { State.reset with halt := true }) =
    some (.inl .stopped) := by decide
/-- Slot 2 of `. jump:34`. -/
theorem test_slot_step : view (fun t => (t.p, t.k, t.i))
    (step { start with i := 0x2D734, k := .slot .two }) = some (0x034, .fetch, 0x2D734) := by decide
theorem test_withFetchWord_runs_the_word :
    view (fun t => (t.p, t.k)) (step (State.reset.withFetchWord 24 0x11412)) = some (0x012, .fetch) := by decide
theorem test_end_of_stdin : view (fun t => (t.t, t.halt, t.diags, t.k))
    (exec .fetchB { atB 0x101 start with env := { Env.idle with stdin := some ⟨[.eos]⟩ } }) =
    some (0, true, [], .slot .two) := by decide
theorem test_tty : view (fun t => t.t)
      (exec .fetchB { atB 0x103 start with env := { Env.idle with tty := some ⟨[.word 0x41], false, []⟩ } }) =
      some 0x41 ∧
    view (fun t => t.env.tty.map Console.tx) (exec .storeB { atB 0x103 start with t := 0x12341 }) =
      some (some [0x41]) := by decide
/-- Two neighbours ready, left and right: right is served and left keeps its word. -/
theorem test_first_ready_is_served : view (fun t => (t.t, (t.link .right).map Link.rx, (t.link .left).map Link.rx))
    (exec .fetchB (node ⟨link [.word 5], link [], link [.word 6], link []⟩ (atB 0x1A5 start))) =
    some (5, some [], some [.word 6]) := by decide
theorem test_failed_neighbour_reads_zero : view (fun t => (t.t, t.halt, t.diags))
    (exec .fetchB (node ⟨none, none, link [.eos], none⟩ (atB 0x175 start))) =
    some (0, false, [.channelError (.link .left)]) := by decide
/-- Status of a node whose four neighbours are all readable and writable. -/
theorem test_full_status :
    (let l : Option Link := some ⟨[.word 1], true, false, []⟩
     (node ⟨l, l, l, l⟩ start).status) = 0x1FE00 := by decide
/-- An environment move between two steps ends the wait of a held node. -/
theorem test_delivery_ends_the_wait : view (fun t => (t.i, t.p, t.k))
    (runEvents [.node, .env (.deliver .right (.word 0x2C9B2)), .node] { State.reset with p := 0x1D5 }) =
    some (0x2C9B2, 0x1D5, .slot .one) := by decide

/-! ## Witnesses: for each obligation with hypotheses, a state and operands that meet them -/

theorem witness_DecodeOfEncodeIsTheInstruction : Config.default.ok = true ∧
    (Instr.call (.slot1 0x3FF)).wf Config.default .one = true ∧
    (Instr.next (.slot2 0xFF)).wf Config.default .two = true ∧
    (Instr.ifPlus (.slot3 7)).wf Config.default .three = true ∧
    Instr.mulStep.wf Config.default .four = true := by decide
theorem witness_EncodeOfDecodeIsTheWord : Config.default.ok = true ∧
    decode Config.default 0x137FF .one = .ok (.call (.slot1 0x3FF)) ∧
    decode Config.default 0x2C97A .three = .ok (.next (.slot3 2)) := by decide
theorem witness_EveryWordDecodesInEverySlot : Config.default.ok = true := by decide
/-- Two words for each clause that differ in the bits the clause leaves out and agree on the others. -/
theorem witness_OtherBitsOfAWordAreIgnored :
    (∀ j < 18, j < 10 ∨ 13 ≤ j → (0x11412#18).getLsbD j = (0x10812#18).getLsbD j) ∧
    (∀ j < 13, (0x2D734#18).getLsbD j = (0x0F734#18).getLsbD j) ∧
    (∀ j < 8, (0x2C945#18).getLsbD j = (0x00045#18).getLsbD j) ∧
    (∀ j < 3, (0x2C9B2#18).getLsbD j = (0x3FFFA#18).getLsbD j) := by decide
theorem witness_OtherBits_slot_one_all_bits :
    ∀ j, j < 10 ∨ 13 ≤ j → (0x11412#18).getLsbD j = (0x10812#18).getLsbD j := by
  intro j h
  by_cases hj : j < 18
  · exact witness_OtherBitsOfAWordAreIgnored.1 j hj h
  · have hj' : 18 ≤ j := Nat.le_of_not_lt hj
    simp only [BitVec.getLsbD_of_ge _ j hj']
theorem witness_PackedMnemonicsDecode :
    Op.takesDest .dup = false ∧ Op.takesDest .over = false ∧ Op.takesDest .add = false := by decide
theorem witness_PackedTransferCarriesItsDestination :
    Op.takesDest .nop = false ∧ Op.takesDest .ret = false ∧ Op.takesDest .jump = true := by decide
theorem witness_StepRunsTheDecodedInstruction : start.cfg.ok = true ∧ start.k = .slot .one ∧
    decode start.cfg start.i .one = .ok .fetchB := by decide
/-- A fetch from the last RAM address, the first and last ROM address, and a port; and one whose read sets
`halt`. -/
theorem witness_FetchStepLatchesTheWord :
    State.reset.cfg.ok = true ∧ State.reset.k = .fetch ∧ State.reset.halt = false ∧
    region ({ State.reset with p := 0x07F }).addrP = .ram ∧
    region ({ State.reset with p := 0x280 }).addrP = .rom ∧
    region ({ State.reset with p := 0x0FF }).addrP = .rom ∧
    (node ⟨link [.word 5], none, none, none⟩ { State.reset with p := 0x1D5 }).memRead 0x1D5 =
      some (5, node ⟨link [], none, none, none⟩ { State.reset with p := 0x1D5 }) ∧
    (State.memRead 0x101 { State.reset with
        p := 0x101, env := { Env.idle with stdin := some ⟨[.eos]⟩ } }).map (fun e => e.2.halt) = some true := by
  decide
theorem witness_WhenAStepStops :
    ({ Config.default with addrData := 0x15D }).ok = false ∧
    (State.reset.cfg.ok = true ∧ ({ State.reset with halt := true }).k = .fetch) ∧
    isNext (step { start with halt := true }) = true := by decide
theorem witness_AStepThatChangesNothingIsHeld :
    { State.reset with p := 0x1D5 }.held = true ∧ State.reset.held = false ∧
    view id (step { State.reset with p := 0x1D5 }) = some { State.reset with p := 0x1D5 } := by decide
theorem witness_ControlTransfersEndTheWord :
    isNext (exec (.ifZero (.slot1 0)) start) = true ∧ isNext (exec .unext { start with r := 0 }) = true ∧
    isNext (exec .unext start) = true ∧ isNext (exec .drop start) = true ∧
    (view id (exec .fetchB (atB 0x1D5 start)) = some (atB 0x1D5 start) ∧
      fetchAddr .fetchB (atB 0x1D5 start) = some 0x1D5 ∧ (atB 0x1D5 start).blocked 0x1D5 = true) := by decide
theorem witness_SlotStepsKeepTheLatchedWord :
    start.k = .slot .one ∧ isNext (step { start with i := 0x0A9B2 }) = true := by decide
/-- `jump:012` at a `p` with P9 set. -/
theorem witness_OnlyTransfersChangeP9 :
    view State.p9 (step { start with i := 0x11412 }) = some false ∧ start.p9 = true := by decide
theorem witness_CountedLoops : ({ start with r := 0 } : State).r = 0#18 ∧ start.r ≠ 0#18 ∧
    ({ start with r := 0x3FFFF } : State).r ≠ 0#18 := by decide
theorem witness_CarryAgainstTheUnsignedCarry : start.p9 = true ∧ isNext (exec .add start) = true := by decide
theorem witness_EighteenMulStepsMultiply :
    ({ start with p := 0, t := 0, s := 0x20000, a := 0x3FFFF } : State).p9 = false ∧
    ({ start with p := 0, t := 0, s := 0x20000, a := 0x3FFFF } : State).t = 0#18 := by decide
theorem witness_StacksKeepTenAndNineValues :
    10 ≤ [1#18, 2, 3, 4, 5, 6, 7, 8, 9, 10, 11].length ∧
    9 ≤ [1#18, 2, 3, 4, 5, 6, 7, 8, 9].length ∧
    (start.dpushAll [1, 2, 3, 4, 5, 6, 7, 8, 9, 10, 11]).dpopMany 10 = [11, 10, 9, 8, 7, 6, 5, 4, 3, 2] := by
  decide
/-- The eleven pushes of V2: the twelve pops deliver 9 and 8 again at the end. -/
theorem witness_PopsRepeatWithPeriodEight : 2 ≤ 2 ∧ 2 + 8 < 12 ∧
    ({ start with sp := 5 }.dpushAll [1, 2, 3, 4, 5, 6, 7, 8, 9, 10, 11]).dpopMany 12 =
      [11, 10, 9, 8, 7, 6, 5, 4, 3, 2, 9, 8] := by decide
/-- `+` with P9 clear, `+*` with P9 set and `a[0]` clear, and another instruction. -/
theorem witness_OnlyAddAndMulStepUseC :
    (¬({ start with p := 0x1FF } : State).p9 = true) ∧
    (({ start with a := 2 } : State).p9 = true ∧ ¬({ start with a := 2 } : State).a.getLsbD 0 = true ∧
      Instr.mulStep ≠ .add) ∧
    (Instr.drop ≠ .add ∧ Instr.drop ≠ .mulStep) := by decide
theorem witness_ReadsAreRoutedByAddress :
    (0x000#9).toNat < 0x80 ∧ (0x07F#9).toNat < 0x80 ∧ 0x80 ≤ (0x080#9).toNat ∧ (0x0FF#9).toNat < 0x100 ∧
    0x100 ≤ (0x100#9).toNat ∧ 0x100 ≤ (0x1FF#9).toNat := by decide
theorem witness_StoresAreReadBackThroughBothAliases :
    start.Inv ∧ region 0x000#9 = .ram ∧ region 0x07F#9 = .ram ∧
    (0x040#9).toNat % 64 ≠ (0x07F#9).toNat % 64 := by decide
theorem witness_FetchesPushTheWordAtTheirAddress :
    fetchAddr .fetchP { start with p := 0x27F } = some 0x07F ∧ region 0x07F#9 = .ram ∧
    fetchAddr .fetchPlus { start with a := 0x3FC80 } = some 0x080 ∧ region 0x080#9 = .rom ∧
    fetchAddr .fetchB (atB 0x0FF start) = some 0x0FF ∧ region 0x0FF#9 = .rom ∧
    fetchAddr .fetchA { start with a := 0 } = some 0 ∧ region 0#9 = .ram := by decide
theorem witness_FetchesPushOrWait :
    fetchAddr .fetchB (atB 0x1D5 start) = some 0x1D5 ∧ (atB 0x1D5 start).blocked 0x1D5 = true ∧
    fetchAddr .fetchP { start with p := 0x27F } = some 0x07F ∧
    ({ start with p := 0x27F } : State).memRead 0x07F = some (0, { start with p := 0x27F }) ∧
    ((node ⟨link [.word 5], none, none, none⟩ (atB 0x1D5 start)).memRead 0x1D5).map Prod.fst = some 5 := by
  decide
theorem witness_StoresToRam : start.Inv ∧
    storeAddr .storeP { start with p := 0x27F } = some 0x07F ∧ region 0x07F#9 = .ram ∧
    storeAddr .storePlus { start with a := 0x3FC00 } = some 0 ∧ region 0#9 = .ram ∧
    storeAddr .storeB (atB 0x40 start) = some 0x40 ∧ storeAddr .storeA { start with a := 1 } = some 1 := by
  decide
theorem witness_StoresOutsideRam :
    storeAddr .storeP { start with p := 0x280 } = some 0x080 ∧ region 0x080#9 = .rom ∧
    storeAddr .storeA { start with a := 0x0FF } = some 0x0FF ∧ region 0x0FF#9 = .rom ∧
    storeAddr .storePlus { start with a := 0x100 } = some 0x100 ∧ region 0x100#9 = .io ∧
    storeAddr .storeB (atB 0x1FF start) = some 0x1FF ∧ region 0x1FF#9 = .io := by decide
theorem witness_OtherInstructionsMakeNoAccess :
    fetchAddr .mulStep start = none ∧ storeAddr .mulStep start = none ∧
    isNext (exec .mulStep start) = true := by decide
/-- All present, and right and up only, at `rdlu` and at the address that selects nothing. -/
theorem witness_SelectionOrderAndAbsence :
    start.cfg.ok = true ∧ (0x1A5#9).extractLsb' 0 4 = start.cfg.portPattern ∧
    (0x155#9).extractLsb' 0 4 = start.cfg.portPattern ∧
    ((node ⟨link [], none, none, link []⟩ start).select 0x1A5 .read).map Prod.fst =
      [.link .right, .link .up] := by decide
/-- 0x1D4 misses the pattern; 0x155 meets it and selects nothing. -/
theorem witness_UnmappedAccesses : start.cfg.ok = true ∧
    0x1D4#9 ∉ start.cfg.fixedAddrs ∧ (0x1D4#9).extractLsb' 0 4 ≠ start.cfg.portPattern ∧
    0x155#9 ≠ start.cfg.addrIo ∧ start.select 0x155 .read = [] ∧ start.select 0x155 .write = [] ∧
    (let s := { node ⟨link [], none, none, none⟩ start with env := ⟨⟨link [], none, none, none⟩, none, none, none⟩ }
     s.cfg.ok = true ∧ s.present .stdin = false ∧ s.present .stdout = false ∧ s.present .tty = false ∧
     (0x115#9).extractLsb' 0 4 = s.cfg.portPattern ∧
     ∀ d ∈ Dir.all, dirSelected 0x115#9 d = true → s.present (.link d) = false) := by decide
/-- Bit 17 and the low nine bits are no status bit; a node with one neighbour. -/
theorem witness_StatusRegisterReportsReadiness : start.cfg.ok = true ∧
    (node ⟨link [], none, none, none⟩ start).link .down = none ∧
    (∀ d ∈ Dir.all, 0x201FF#18 &&& start.cfg.stRd.get d = 0 ∧ 0x201FF#18 &&& start.cfg.stWr.get d = 0) := by
  decide
/-- `rdlu` with only left ready: right and down come before it and are not ready. -/
theorem witness_ReadTakesOneWordFromTheFirstReadyChannel :
    let s := node ⟨link [], link [], link [.word 6, .word 7], link [.word 8]⟩ start
    0x1A5#9 ≠ s.cfg.addrIo ∧
    s.select 0x1A5 .read = [(.link .right, 0x10000), (.link .down, 0x4000)] ++
      (.link .left, 0x1000) :: [(.link .up, 0x400)] ∧
    s.rdReady (.link .right) = false ∧ s.rdReady (.link .down) = false ∧
    s.pending (.link .left) = .word 6 :: [.word 7] := by decide
/-- The second clause of the same: the largest character waiting on the console. -/
theorem witness_ReadTakesOneWord_console :
    let s := { start with env := { Env.idle with tty := some ⟨[.word 0xFF, .eos], false, []⟩ } }
    s.cfg.ok = true ∧ s.env.tty = some ⟨.word 0xFF :: [.eos], false, []⟩ := by decide
theorem witness_FailedReadYieldsZero :
    let s := node ⟨link [.err], none, link [.eos], none⟩ start
    s.select 0x1D5 .read = [] ++ (.link .right, 0x10000) :: [] ∧ s.pending (.link .right) = .err :: [] ∧
    s.select 0x175 .read = [] ++ (.link .left, 0x1000) :: [] ∧ s.pending (.link .left) = .eos :: [] ∧
    0x1D5#9 ≠ s.cfg.addrIo ∧ 0x175#9 ≠ s.cfg.addrIo := by decide
theorem witness_EndOfHostInputSetsHalt :
    let s := { start with env := { Env.idle with stdin := some ⟨[.eos]⟩, tty := some ⟨[.eos], false, []⟩ } }
    s.select 0x100 .read = [] ++ (.stdin, 0) :: [] ∧ s.pending .stdin = .eos :: [] ∧
    s.select 0x103 .read = [] ++ (.tty, 0) :: [] ∧ s.pending .tty = .eos :: [] ∧
    0x100#9 ≠ s.cfg.addrIo ∧ 0x103#9 ≠ s.cfg.addrIo := by decide
theorem witness_WriteReachesEverySelectedNeighbour :
    start.link .right = some Link.idle ∧ start.link .up = some Link.idle ∧
    start.select 0x1A5 .write ≠ [] := by decide
/-- Right and left of `rdlu` fail: two diagnostics, the later one first. -/
theorem test_failing_neighbours_are_recorded_in_order :
    let l : Option Link := some ⟨[], false, true, []⟩
    ((node ⟨l, link [], l, none⟩ start).ioWrite 0x1A5 7).diags =
      [.channelError (.link .left), .channelError (.link .right)] := by decide
theorem witness_HostWritesSendOrRecordTheFailure : start.cfg.ok = true ∧
    start.env.stdout = some ⟨false, []⟩ ∧ start.env.tty = some ⟨[], false, []⟩ ∧
    { start with env := { Env.idle with stdout := some ⟨true, []⟩ } }.env.stdout = some ⟨true, []⟩ := by decide
/-- `@b` at stdin with the stream at its end sets the flag. -/
theorem witness_HaltIsSetOnlyByEndOfStream :
    let s := { atB 0x101 start with env := { Env.idle with stdin := some ⟨[.eos]⟩ } }
    s.halt = false ∧ view State.halt (step s) = some true ∧ s.nextRead = some 0x101 ∧
    view State.halt (step { start with halt := true }) = some true ∧
    ({ State.reset with halt := true } : State).k = .fetch := by decide
theorem witness_DiagnosticsComeFromIoAndRomAccesses :
    view State.diags (step (atB 0x141 start)) = some [.unmapped] ∧
    view State.diags (step { start with i := 0x0A9B2, a := 0x80 }) = some [.romWrite] ∧
    start.diags = [] := by decide
theorem witness_EveryStepKeepsTheMemoriesCanonical :
    start.Inv ∧ view (fun t => t.ram) (step { start with i := 0x0A9B2, a := 0x7F }) = some [(0x3F, 1)] := by
  decide
theorem witness_RunsKeepRomAndConfiguration : start.Inv ∧
    isNext (runEvents [.node, .env (.writeReady .up true), .node] start) = true := by decide
theorem witness_ResetLeavesZeroedRam : region 0x000#9 = .ram ∧ region 0x07F#9 = .ram ∧
    region 0x080#9 = .rom ∧ region 0x0FF#9 = .rom := by decide

end Sys2Proof.Tests
end

section
/-! PROOFS. The pushes and pops of the two stacks, cell by cell (spec/10_state.md R30 to R33). -/

namespace Sys2Proof.Machine

/-- Settles O29: a push changes one cell of `ds` (`Cells.get_set`); what is left is the definition. -/
theorem dataStackPrimitives : Obligations.DataStackPrimitives := by
  intro s v
  refine ⟨fun n => ?_, rfl, rfl⟩
  rw [State.dpush_ds, Cells.get_set]
  simp only [eq_comm]

/-- Settles O30: a push changes one cell of `rs` (`Cells.get_set`); what is left is the definition. -/
theorem returnStackPrimitives : Obligations.ReturnStackPrimitives := by
  intro s v
  refine ⟨fun n => ?_, rfl, rfl⟩
  rw [State.rpush_rs, Cells.get_set]
  simp only [eq_comm]

end Sys2Proof.Machine
end

section
/-! SUPPORT. The three shapes of an instruction: a fetch at its address, a store at its address, or no
access to memory and channels at all (spec/43_memory_access.md R249). -/

namespace Sys2Proof.Machine

variable {s t : State} {i : Instr}

/-- A fetch instruction is the fetch at its address. -/
theorem exec_of_fetchAddr {addr : Addr} (h : fetchAddr i s = some addr) :
    exec i s = s.fetchVia addr (afterAccess i) := by
  cases i with
  | fetchP | fetchPlus | fetchB | fetchA => cases h; rfl
  | _ => cases h

/-- A store instruction is the store at its address. -/
theorem exec_of_storeAddr {addr : Addr} (h : storeAddr i s = some addr) :
    exec i s = s.storeVia addr (afterAccess i) := by
  cases i with
  | storeP | storePlus | storeB | storeA => cases h; rfl
  | _ => cases h

/-- An instruction that makes no access changes no field that only memory and channels change. -/
theorem exec_frame_of_no_access (hread : fetchAddr i s = none) (hwrite : storeAddr i s = none)
    (h : exec i s = .next t) :
    t = { t with cfg := s.cfg, ram := s.ram, rom := s.rom, halt := s.halt, env := s.env,
                 diags := s.diags } := by
  cases i with
  | fetchP | fetchPlus | fetchB | fetchA => cases hread
  | storeP | storePlus | storeB | storeA => cases hwrite
  | unext => simp only [exec, execUnext] at h; split at h <;> cases h <;> rfl
  | next d => simp only [exec, execNext] at h; split at h <;> cases h <;> rfl
  | ifZero d => simp only [exec, execIfZero] at h; split at h <;> cases h <;> rfl
  | ifPlus d => simp only [exec, execIfPlus] at h; split at h <;> cases h <;> rfl
  | _ => cases h; rfl

/-- The update of an address register leaves `halt`. -/
@[simp] theorem afterAccess_halt (i : Instr) (s : State) : (afterAccess i s).halt = s.halt := by
  cases i <;> rfl

end Sys2Proof.Machine
end

section
/-! PROOFS. What can change `halt`: a read that meets the end of stream of a host input, and nothing else
(spec/10_state.md R42; spec/20_memory.md R97). -/

namespace Sys2Proof.Machine

variable {s t : State} {i : Instr}

/-- A read at `addr` selects a host input whose oldest answer is the end of stream. -/
def State.MeetsEndOfInput (s : State) (addr : Addr) : Prop :=
  ∃ ch m rest, (ch = .stdin ∨ ch = .tty) ∧ (ch, m) ∈ s.select addr .read ∧ s.pending ch = .eos :: rest

/-! ## Reads and writes -/

@[simp] theorem State.takeAnswer_halt (ch : Chan) (s : State) : (s.takeAnswer ch).halt = s.halt := by
  rw [State.takeAnswer_frame]

@[simp] theorem State.memWrite_halt (addr : Addr) (v : Word) (s : State) :
    (s.memWrite addr v).halt = s.halt := by
  obtain ⟨m, e, d, h⟩ := State.memWrite_frame addr v s
  rw [h]

/-- An answer leaves `halt` as it was, or sets it and is the end of stream of a host input. -/
theorem State.settle_halt (ch : Chan) (x : Answer 18) (s : State) :
    (s.settle ch x).2.halt = s.halt ∨
      ((s.settle ch x).2.halt = true ∧ x = .eos ∧ (ch = .stdin ∨ ch = .tty)) := by
  cases x with
  | word v => exact .inl rfl
  | err => exact .inl rfl
  | eos =>
    by_cases hc : ch = .stdin ∨ ch = .tty
    · exact .inr ⟨by simp [State.settle, hc], rfl, hc⟩
    · exact .inl (by simp [State.settle, hc])

/-- A read leaves `halt` as it was, or sets it and meets the end of stream of a host input. -/
theorem State.memRead_halt {addr : Addr} {v : Word} {u : State} (h : s.memRead addr = some (v, u)) :
    u.halt = s.halt ∨ (u.halt = true ∧ s.MeetsEndOfInput addr) := by
  unfold State.memRead at h
  split at h
  · cases h; exact .inl rfl
  · cases h; exact .inl rfl
  · rcases State.ioRead_cases h with ⟨_, _, rfl⟩ | ⟨_, _, _, rfl⟩ | ⟨_, _, hserve⟩
    · exact .inl rfl
    · exact .inl rfl
    · obtain ⟨pre, ch, m, post, x, rest, hsel, _, hpend, hsettle⟩ := State.service_cases hserve
      have hu : u = ((s.takeAnswer ch).settle ch x).2 := by rw [hsettle]
      rcases State.settle_halt ch x (s.takeAnswer ch) with hh | ⟨hh, rfl, hch⟩
      · exact .inl (by rw [hu, hh, State.takeAnswer_halt])
      · exact .inr ⟨by rw [hu, hh], ch, m, rest, hch, by simp [hsel], hpend⟩

/-! ## Instructions and steps -/

/-- An instruction leaves `halt` as it was, or sets it and its read meets the end of stream of a host
input. -/
theorem exec_halt (h : exec i s = .next t) :
    t.halt = s.halt ∨ (t.halt = true ∧ ∃ addr, fetchAddr i s = some addr ∧ s.MeetsEndOfInput addr) := by
  cases hread : fetchAddr i s with
  | some addr =>
    rw [exec_of_fetchAddr hread] at h
    rcases State.fetchVia_cases h with ⟨_, rfl⟩ | ⟨v, u, hm, rfl⟩
    · exact .inl rfl
    · simpa using State.memRead_halt hm
  | none =>
    cases hwrite : storeAddr i s with
    | some addr =>
      rw [exec_of_storeAddr hwrite] at h
      cases h
      exact .inl (by simp)
    | none => exact .inl (congrArg State.halt (exec_frame_of_no_access hread hwrite h) :)

/-- A step leaves `halt` as it was, or sets it and its read meets the end of stream of a host input. -/
theorem step_halt (h : step s = .next t) :
    t.halt = s.halt ∨ (t.halt = true ∧ ∃ addr, s.nextRead = some addr ∧ s.MeetsEndOfInput addr) := by
  obtain ⟨_, ⟨hk, hh, hfetch⟩ | ⟨k, i, hk, hd, hexec⟩⟩ := step_cases h
  · have hread : s.nextRead = some s.addrP := by simp [State.nextRead, hk, hh]
    obtain ⟨_, ⟨_, rfl⟩ | ⟨w, u, hm, rfl⟩⟩ := fetchStep_cases hfetch
    · exact .inl rfl
    · simpa [hread] using State.memRead_halt hm
  · have hread : s.nextRead = fetchAddr i s := by simp [State.nextRead, hk, hd]
    rw [hread]
    exact exec_halt hexec

/-- A stopped node has no next state (R175). -/
theorem step_ne_next_of_stopped (hh : s.halt = true) (hk : s.k = .fetch) : step s ≠ .next t := by
  intro h
  obtain ⟨_, ⟨_, hrun, _⟩ | ⟨k, _, hslot, _⟩⟩ := step_cases h
  · simp [hh] at hrun
  · simp [hk] at hslot

/-- Settles O55: both clauses on a step to a next state are `step_halt`, the last is
`step_ne_next_of_stopped`. -/
theorem haltIsSetOnlyByEndOfStream : Obligations.HaltIsSetOnlyByEndOfStream := by
  refine ⟨fun s t h => ?_, fun s t => step_ne_next_of_stopped⟩
  rcases step_halt h with hsame | ⟨hset, addr, hread, ch, m, rest, hinput⟩
  · exact ⟨fun hs => by rw [hsame, hs], fun hs ht => by simp [hsame, hs] at ht⟩
  · exact ⟨fun _ => hset, fun _ _ => ⟨addr, ch, m, rest, hread, hinput⟩⟩

end Sys2Proof.Machine
end

section
/-! SUPPORT. Changes of the state that memory, the router and the channels do not see commute with every
access. -/

namespace Sys2Proof.Machine

/-- A change of the state no access sees: it keeps the configuration and ROM, and commutes with every
update of the fields an access can change. -/
structure IoBlind (f : State → State) : Prop where
  cfg : ∀ s, (f s).cfg = s.cfg
  rom : ∀ s, (f s).rom = s.rom
  update : ∀ s ram env halt diags,
    f { s with ram := ram, env := env, halt := halt, diags := diags } =
      { f s with ram := ram, env := env, halt := halt, diags := diags }

namespace IoBlind

variable {f : State → State} (hf : IoBlind f) (s : State)
include hf

/-! ## Fields and updates -/

theorem ram : (f s).ram = s.ram := (congrArg State.ram (hf.update s s.ram s.env s.halt s.diags) :)
theorem env : (f s).env = s.env := (congrArg State.env (hf.update s s.ram s.env s.halt s.diags) :)
theorem halt : (f s).halt = s.halt := (congrArg State.halt (hf.update s s.ram s.env s.halt s.diags) :)
theorem diags : (f s).diags = s.diags :=
  (congrArg State.diags (hf.update s s.ram s.env s.halt s.diags) :)

theorem with_ram (m : Memory) : { f s with ram := m } = f { s with ram := m } := by
  have h := hf.update s m s.env s.halt s.diags
  simp only [h, hf.env, hf.halt, hf.diags]

theorem with_env (e : Env) : { f s with env := e } = f { s with env := e } := by
  have h := hf.update s s.ram e s.halt s.diags
  simp only [h, hf.ram, hf.halt, hf.diags]

theorem diag (d : Diag) : (f s).diag d = f (s.diag d) := by
  have h := hf.update s s.ram s.env s.halt (d :: s.diags)
  simp only [State.diag, h, hf.ram, hf.env, hf.halt, hf.diags]

theorem setHalt : (f s).setHalt = f s.setHalt := by
  have h := hf.update s s.ram s.env true s.diags
  simp only [State.setHalt, h, hf.ram, hf.env, hf.diags]

theorem setLink (d : Dir) (l : Link) : (f s).setLink d l = f (s.setLink d l) := by
  simp only [State.setLink, hf.env, hf.with_env]

/-! ## Channels -/

theorem link (d : Dir) : (f s).link d = s.link d := by simp only [State.link, hf.env]

theorem pending (ch : Chan) : (f s).pending ch = s.pending ch := by
  cases ch <;> simp only [State.pending, hf.link, hf.env]

theorem present (ch : Chan) : (f s).present ch = s.present ch := by
  cases ch <;> simp only [State.present, hf.link, hf.env]

theorem takeAnswer (ch : Chan) : (f s).takeAnswer ch = f (s.takeAnswer ch) := by
  cases ch with
  | link d =>
    cases h : s.link d with
    | none => simp only [State.takeAnswer, hf.link, h]
    | some l => simp only [State.takeAnswer, hf.link, h, hf.setLink]
  | stdout => rfl
  | stdin | tty => simp only [State.takeAnswer, hf.env, hf.with_env]

theorem send (ch : Chan) (v : Word) : (f s).send ch v = f (s.send ch v) := by
  cases ch with
  | link d =>
    cases h : s.link d with
    | none => simp only [State.send, hf.link, h]
    | some l => simp only [State.send, hf.link, h, hf.setLink, hf.diag, apply_ite f]
  | stdin => rfl
  | stdout =>
    cases h : s.env.stdout with
    | none => simp only [State.send, hf.env, h]
    | some x => simp only [State.send, hf.env, h, hf.with_env, hf.diag, apply_ite f]
  | tty =>
    cases h : s.env.tty with
    | none => simp only [State.send, hf.env, h]
    | some x => simp only [State.send, hf.env, h, hf.with_env, hf.diag, apply_ite f]

theorem sendAll (l : List (Chan × Word)) (v : Word) :
    l.foldl (fun s e => s.send e.1 v) (f s) = f (l.foldl (fun s e => s.send e.1 v) s) := by
  induction l generalizing s with
  | nil => rfl
  | cons e l ih => rw [List.foldl_cons, List.foldl_cons, hf.send, ih]

/-! ## The router -/

theorem select (addr : Addr) (x : Xfer) : (f s).select addr x = s.select addr x := by
  simp only [State.select, State.selectPort, State.hostChan, hf.cfg, hf.present]

theorem rdReady (ch : Chan) : (f s).rdReady ch = s.rdReady ch := by
  simp only [State.rdReady, hf.pending]

theorem wrReady (d : Dir) : (f s).wrReady d = s.wrReady d := by
  cases h : s.link d <;> simp only [State.wrReady, hf.link, h]

theorem status : (f s).status = s.status := by
  simp only [State.status, State.dirStatus, hf.rdReady, hf.wrReady, hf.cfg]

theorem settle (ch : Chan) (x : Answer 18) :
    (f s).settle ch x = Prod.map id f (s.settle ch x) := by
  cases x with
  | word v => rfl
  | err => simp only [State.settle, hf.diag, Prod.map, id]
  | eos =>
    by_cases hc : ch = .stdin ∨ ch = .tty
    · simp only [State.settle, if_pos hc, hf.setHalt, Prod.map, id]
    · simp only [State.settle, if_neg hc, hf.diag, Prod.map, id]

theorem service (l : List (Chan × Word)) :
    (f s).service l = (s.service l).map (Prod.map id f) := by
  induction l with
  | nil => rfl
  | cons e l ih =>
    cases h : s.pending e.1 with
    | nil => simpa only [State.service, hf.pending, h] using ih
    | cons x rest => simp only [State.service, hf.pending, h, hf.takeAnswer, hf.settle, Option.map_some]

theorem ioRead (addr : Addr) : (f s).ioRead addr = (s.ioRead addr).map (Prod.map id f) := by
  unfold State.ioRead
  rw [hf.cfg, hf.status, hf.select]
  by_cases hio : addr = s.cfg.addrIo
  · simp [hio]
  · cases h : s.select addr .read with
    | nil => simp [hio, hf.diag]
    | cons e l => simp [hio, hf.service]

theorem ioWrite (addr : Addr) (v : Word) : (f s).ioWrite addr v = f (s.ioWrite addr v) := by
  unfold State.ioWrite
  rw [hf.select]
  cases h : s.select addr .write with
  | nil => exact hf.diag s .unmapped
  | cons e l => exact hf.sendAll s (e :: l) v

theorem memRead (addr : Addr) : (f s).memRead addr = (s.memRead addr).map (Prod.map id f) := by
  unfold State.memRead
  cases region addr with
  | ram => simp [hf.ram]
  | rom => simp [hf.rom]
  | io => exact hf.ioRead s addr

theorem memWrite (addr : Addr) (v : Word) : (f s).memWrite addr v = f (s.memWrite addr v) := by
  unfold State.memWrite
  cases region addr with
  | ram => simp only [hf.ram, hf.with_ram]
  | rom => exact hf.diag s .romWrite
  | io => exact hf.ioWrite s addr v

/-! ## Shapes of an instruction -/

/-- A read-and-go-on commutes with `f` when what follows the read does. -/
theorem readThen (addr : Addr) {g : Word → State → State} (hg : ∀ v u, g v (f u) = f (g v u)) :
    (f s).readThen addr g = mapNext f (s.readThen addr g) := by
  unfold State.readThen
  rw [hf.memRead]
  cases s.memRead addr with
  | none => rfl
  | some x => exact congrArg Host.Outcome.next (hg x.1 x.2)

end IoBlind

end Sys2Proof.Machine
end

section
/-! PROOFS. Which instructions read or write the carry (spec/10_state.md R28, R38). -/

namespace Sys2Proof.Machine

/-- The state with another carry. -/
def State.withC (x : Bool) (s : State) : State := { s with c := x }

/-- Memory, the router and the channels do not see the carry. -/
theorem withC_ioBlind (x : Bool) : IoBlind (State.withC x) where
  cfg _ := rfl
  rom _ := rfl
  update _ _ _ _ _ := rfl

variable (s : State) (x : Bool)

/-- A fetch whose address register update leaves the carry alone does so too. -/
theorem fetchVia_withC (addr : Addr) {bump : State → State}
    (hbump : ∀ u, bump (u.withC x) = (bump u).withC x) :
    (s.withC x).fetchVia addr bump = mapNext (State.withC x) (s.fetchVia addr bump) :=
  (withC_ioBlind x).readThen s addr fun v u => by rw [hbump]; rfl

/-- A store whose address register update leaves the carry alone does so too. -/
theorem storeVia_withC (addr : Addr) {bump : State → State}
    (hbump : ∀ u, bump (u.withC x) = (bump u).withC x) :
    (s.withC x).storeVia addr bump = mapNext (State.withC x) (s.storeVia addr bump) := by
  unfold State.storeVia
  rw [(withC_ioBlind x).memWrite, hbump]
  rfl

/-- While P9 is clear no carry enters a sum. -/
theorem carryIn_of_not_p9 {s : State} (h : s.p9 = false) : s.carryIn = 0 := by
  simp [State.carryIn, h]

/-- While P9 is clear a sum leaves the carry. -/
theorem carryAfter_of_not_p9 {s : State} (h : s.p9 = false) (sum : Int) : s.carryAfter sum = s.c := by
  simp [State.carryAfter, h]

/-- While P9 is clear the exact sum is the same for either carry. -/
theorem exactSum_withC {s : State} (h : s.p9 = false) : (s.withC x).exactSum = s.exactSum := by
  have hx : (s.withC x).p9 = false := h
  rw [State.exactSum, State.exactSum, carryIn_of_not_p9 h, carryIn_of_not_p9 hx]
  rfl

/-- `+` while P9 is clear neither reads nor writes the carry. -/
theorem execAdd_withC {s : State} (h : s.p9 = false) :
    execAdd (s.withC x) = mapNext (State.withC x) (execAdd s) := by
  have hx : (s.withC x).p9 = false := h
  simp only [execAdd, exactSum_withC x h, carryAfter_of_not_p9 h, carryAfter_of_not_p9 hx]
  rfl

/-- The sum `+*` shifts is the same for either carry while P9 or `a[0]` is clear. -/
theorem mulSum_withC {s : State} (h : s.p9 = false ∨ s.a.getLsbD 0 = false) :
    (s.withC x).mulSum = s.mulSum := by
  unfold State.mulSum
  rcases h with hp | ha
  · rw [exactSum_withC x hp]; rfl
  · have hclear := Bool.eq_false_iff.mp ha
    exact (if_neg hclear).trans (if_neg hclear).symm

/-- The carry after `+*` is the carry before while P9 or `a[0]` is clear. -/
theorem mulCarry_of_not_p9_or_a0 {s : State} (h : s.p9 = false ∨ s.a.getLsbD 0 = false) (sum : Int) :
    (if s.a.getLsbD 0 then s.carryAfter sum else s.c) = s.c := by
  rcases h with hp | ha
  · rw [carryAfter_of_not_p9 hp, ite_self]
  · exact if_neg (Bool.eq_false_iff.mp ha)

/-- `+*` while P9 or `a[0]` is clear neither reads nor writes the carry (D25, log 27). -/
theorem execMulStep_withC {s : State} (h : s.p9 = false ∨ s.a.getLsbD 0 = false) :
    execMulStep (s.withC x) = mapNext (State.withC x) (execMulStep s) := by
  have hx : (s.withC x).p9 = false ∨ (s.withC x).a.getLsbD 0 = false := h
  rw [execMulStep, execMulStep, mulSum_withC x h, mulCarry_of_not_p9_or_a0 h,
    mulCarry_of_not_p9_or_a0 hx]
  rfl

/-- No instruction but `+` and an adding `+*`, and those only while P9 is set, reads or writes the carry. -/
theorem exec_withC {i : Instr} {s : State}
    (h : ¬(s.p9 = true ∧ (i = .add ∨ (i = .mulStep ∧ s.a.getLsbD 0 = true)))) :
    exec i (s.withC x) = mapNext (State.withC x) (exec i s) := by
  cases i with
  | add => exact execAdd_withC x (Bool.eq_false_iff.mpr fun hp => h ⟨hp, .inl rfl⟩)
  | mulStep =>
    have hoff : s.p9 = false ∨ s.a.getLsbD 0 = false := by
      simp only [← Bool.not_eq_true, ← not_and_or]
      exact fun ⟨hp, ha⟩ => h ⟨hp, .inr ⟨rfl, ha⟩⟩
    exact execMulStep_withC x hoff
  | fetchP | fetchPlus | fetchB | fetchA => exact fetchVia_withC s x _ fun _ => rfl
  | storeP | storePlus | storeB | storeA => exact storeVia_withC s x _ fun _ => rfl
  | unext => simp only [exec, execUnext, apply_ite (mapNext _)]; rfl
  | next d => simp only [exec, execNext, apply_ite (mapNext _)]; rfl
  | ifZero d => simp only [exec, execIfZero, apply_ite (mapNext _)]; rfl
  | ifPlus d => simp only [exec, execIfPlus, apply_ite (mapNext _)]; rfl
  | _ => rfl

/-- Settles O37: `exec_withC` for the change of carry under its name. -/
theorem onlyAddAndMulStepUseC : Obligations.OnlyAddAndMulStepUseC :=
  fun _ _ x h => exec_withC x h

end Sys2Proof.Machine
end

section
/-! PROOFS. The router in numbers: a region is a range of addresses, a cell the low six bits
(spec/20_memory.md R61, R62). -/

namespace Sys2Proof.Machine

variable {s : State} {addr : Addr}

/-! ## Regions and cells as numbers -/

/-- The cell of an address is its number modulo the 64 cells of a memory. -/
theorem cell_eq_mod (addr : Addr) : cell addr = addr.toNat % 64 := by
  rw [cell, BitVec.extractLsb'_toNat, Nat.shiftRight_zero]

/-- Bit 8 parts the I/O addresses from the others at 0x100, and below it bit 7 parts ROM from RAM at 0x80. -/
theorem region_eq_ite (addr : Addr) :
    region addr = if 0x100 ≤ addr.toNat then .io else if 0x80 ≤ addr.toNat then .rom else .ram := by
  have h8 : addr.getLsbD 8 = true ↔ 0x100 ≤ addr.toNat := by
    rw [BitVec.getLsbD, Nat.testBit_eq_decide_div_mod_eq, decide_eq_true_eq]
    omega
  by_cases hio : 0x100 ≤ addr.toNat
  · rw [region, if_pos (h8.mpr hio), if_pos hio]
  · have h7 : addr.getLsbD 7 = true ↔ 0x80 ≤ addr.toNat := by
      rw [BitVec.getLsbD, Nat.testBit_eq_decide_div_mod_eq, decide_eq_true_eq]
      omega
    simp only [region, h8, h7, hio, if_false]

/-! ## A read in each region -/

/-- A read in RAM gives the cell of its address and changes nothing. -/
theorem State.memRead_of_ram (h : region addr = .ram) :
    s.memRead addr = some (s.ram.read (cell addr), s) := by
  rw [State.memRead, h]

/-- A read in ROM gives the cell of its address and changes nothing. -/
theorem State.memRead_of_rom (h : region addr = .rom) :
    s.memRead addr = some (s.rom.read (cell addr), s) := by
  rw [State.memRead, h]

/-- A read of an I/O address is `IoRead`. -/
theorem State.memRead_of_io (h : region addr = .io) : s.memRead addr = s.ioRead addr := by
  rw [State.memRead, h]

/-- Settles O38: the range of the address gives its region (`region_eq_ite`), and the region the read. -/
theorem readsAreRoutedByAddress : Obligations.ReadsAreRoutedByAddress := by
  intro s addr
  have hregion := region_eq_ite addr
  rw [← cell_eq_mod]
  refine ⟨fun hram => ?_, fun hlo hhi => ?_, fun hio => ?_⟩
  · rw [if_neg (by omega), if_neg (by omega)] at hregion
    exact State.memRead_of_ram hregion
  · rw [if_neg (by omega), if_pos hlo] at hregion
    exact State.memRead_of_rom hregion
  · rw [if_pos hio] at hregion
    exact State.memRead_of_io hregion

end Sys2Proof.Machine
end

section
/-! PROOFS. The status register: a bit of it is set exactly when it is the status bit of a transfer that is
ready, since R91 gives the eight transfers eight different single bits (spec/20_memory.md R77, R90, R91). -/

namespace Sys2Proof.Machine

variable {s : State} {cfg : Config}

/-! ## The eight status bits -/

/-- A mask of one bit is determined by any bit it has. -/
theorem eq_shiftLeft_of_isSingleBit {m : Word} {n : Nat} (hm : isSingleBit m = true)
    (hn : m.getLsbD n = true) : m = 1#18 <<< n := by
  obtain ⟨k, -, hk⟩ := List.any_eq_true.mp hm
  obtain rfl : m = 1#18 <<< k := by simpa using hk
  obtain rfl : n = k := by
    simp only [BitVec.getLsbD_shiftLeft, BitVec.getLsbD_one, Bool.and_eq_true, decide_eq_true_eq,
      Bool.not_eq_true', decide_eq_false_iff_not] at hn
    omega
  rfl

/-- The eight transfers at the neighbours, in the order of the masks of `Config.statusOk` (R77). -/
def linkTransfers : List (Xfer × Dir) :=
  Dir.all.map (Xfer.read, ·) ++ Dir.all.map (Xfer.write, ·)

theorem mem_linkTransfers (x : Xfer) (d : Dir) : (x, d) ∈ linkTransfers := by
  cases x <;> cases d <;> decide

/-- R91, as an admitted configuration has it. -/
theorem Config.statusBits_of_ok (h : cfg.ok = true) :
    (∀ x d, isSingleBit (statusBit cfg x d) = true) ∧
      (linkTransfers.map fun e => statusBit cfg e.1 e.2).Nodup := by
  obtain ⟨⟨⟨-, hst⟩, -⟩, -⟩ : ((cfg.addrsOk ∧ cfg.statusOk) ∧ cfg.bijectionOk) ∧ cfg.slot4Ok := by
    simpa only [Config.ok, Bool.and_eq_true] using h
  have hmasks : cfg.stRd.toList ++ cfg.stWr.toList =
    linkTransfers.map fun e => statusBit cfg e.1 e.2 := rfl
  simp only [Config.statusOk, hmasks, Bool.and_eq_true, List.all_eq_true, decide_eq_true_eq] at hst
  exact ⟨fun x d => hst.1 _ (List.mem_map_of_mem (mem_linkTransfers x d)), hst.2⟩

/-- No two transfers share a bit (R91). -/
theorem transfer_eq_of_statusBit_getLsbD (h : cfg.ok = true) {x x' : Xfer} {d d' : Dir} {n : Nat}
    (hn : (statusBit cfg x d).getLsbD n = true) (hn' : (statusBit cfg x' d').getLsbD n = true) :
    x = x' ∧ d = d' := by
  obtain ⟨hsingle, hnodup⟩ := Config.statusBits_of_ok h
  have hmask : statusBit cfg x d = statusBit cfg x' d' :=
    (eq_shiftLeft_of_isSingleBit (hsingle x d) hn).trans
      (eq_shiftLeft_of_isSingleBit (hsingle x' d') hn').symm
  exact Prod.mk.inj <|
    List.inj_on_of_nodup_map hnodup (mem_linkTransfers x d) (mem_linkTransfers x' d') hmask

/-! ## The bits of the status word -/

/-- Whether a neighbour link is ready for a transfer (R80, R81). -/
def State.linkReady (s : State) (x : Xfer) (d : Dir) : Bool :=
  match x with
  | .read => s.rdReady (.link d)
  | .write => s.wrReady d

/-- An absent neighbour is ready for nothing. -/
theorem State.linkReady_of_absent {d : Dir} (h : s.link d = none) (x : Xfer) :
    s.linkReady x d = false := by
  cases x <;> simp [State.linkReady, State.rdReady, State.pending, State.wrReady, h]

theorem Xfer.exists_iff {p : Xfer → Prop} : (∃ x, p x) ↔ p .read ∨ p .write := by
  refine ⟨fun ⟨x, h⟩ => ?_, fun h => h.elim (⟨_, ·⟩) (⟨_, ·⟩)⟩
  cases x <;> simp [h]

theorem Dir.exists_iff {p : Dir → Prop} : (∃ d, p d) ↔ ((p .right ∨ p .down) ∨ p .left) ∨ p .up := by
  refine ⟨fun ⟨d, h⟩ => ?_, ?_⟩
  · cases d <;> simp [h]
  · rintro (((h | h) | h) | h) <;> exact ⟨_, h⟩

theorem getLsbD_ite_zero (b : Bool) (m : Word) (n : Nat) :
    (if b then m else 0#18).getLsbD n = (b && m.getLsbD n) := by
  cases b <;> simp

/-- The status bits of one direction are those of its transfers that are ready. -/
theorem State.dirStatus_getLsbD (s : State) (d : Dir) (n : Nat) :
    (s.dirStatus d).getLsbD n = true ↔
      ∃ x, s.linkReady x d = true ∧ (statusBit s.cfg x d).getLsbD n = true := by
  simp only [Xfer.exists_iff, State.dirStatus, BitVec.getLsbD_or, getLsbD_ite_zero, Bool.or_eq_true,
    Bool.and_eq_true, State.linkReady, statusBit]

/-- `Status()` has exactly the bits of the transfers that are ready (R90). -/
theorem State.status_getLsbD (s : State) (n : Nat) :
    s.status.getLsbD n = true ↔
      ∃ x d, s.linkReady x d = true ∧ (statusBit s.cfg x d).getLsbD n = true := by
  rw [exists_comm, Dir.exists_iff]
  simp [State.status, Dir.all, State.dirStatus_getLsbD]

/-- Two words share no bit when no bit of the one is a bit of the other. -/
theorem and_eq_zero_iff_getLsbD {v m : Word} :
    v &&& m = 0#18 ↔ ∀ n, v.getLsbD n = true → m.getLsbD n = false := by
  refine ⟨fun h n hv => ?_, fun h => BitVec.eq_of_getLsbD_eq fun n _ => ?_⟩
  · simpa [hv] using congrArg (·.getLsbD n) h
  · simpa using h n

/-- A word that shares no bit with the status bit of a ready transfer shares none with the status (R90). -/
theorem State.status_and_eq_zero {m : Word}
    (h : ∀ x d, s.linkReady x d = true → statusBit s.cfg x d &&& m = 0#18) : s.status &&& m = 0#18 := by
  refine and_eq_zero_iff_getLsbD.mpr fun n hn => ?_
  obtain ⟨x, d, hready, hbit⟩ := (s.status_getLsbD n).mp hn
  exact and_eq_zero_iff_getLsbD.mp (h x d hready) n hbit

/-- The bit of a transfer is set in the status exactly when that transfer is ready (R90). -/
theorem State.status_and_statusBit (h : s.cfg.ok = true) (x : Xfer) (d : Dir) :
    s.status &&& statusBit s.cfg x d = if s.linkReady x d then statusBit s.cfg x d else 0#18 := by
  split
  · next hready =>
    refine BitVec.eq_of_getLsbD_eq fun n _ => ?_
    rw [BitVec.getLsbD_and, Bool.and_eq_right_iff_imp]
    exact fun hbit => (s.status_getLsbD n).mpr ⟨x, d, hready, hbit⟩
  · next hidle =>
    refine and_eq_zero_iff_getLsbD.mpr fun n hn => Bool.eq_false_iff.mpr fun hbit => hidle ?_
    obtain ⟨x', d', hready, hbit'⟩ := (s.status_getLsbD n).mp hn
    obtain ⟨rfl, rfl⟩ := transfer_eq_of_statusBit_getLsbD h hbit hbit'
    exact hready

/-- `IoRead` of the status register answers at once, in the same state (R92). -/
theorem State.ioRead_addrIo (s : State) : s.ioRead s.cfg.addrIo = some (s.status, s) := by
  rw [State.ioRead, if_pos rfl]

/-- Settles O49: by `State.status_and_statusBit` the status shows each transfer, by
`State.status_and_eq_zero` nothing else. -/
theorem statusRegisterReportsReadiness : Obligations.StatusRegisterReportsReadiness := by
  intro s hok
  have hbit := State.status_and_statusBit hok
  refine ⟨s.ioRead_addrIo, fun d => ⟨hbit .read d, hbit .write d⟩, fun d hd => ?_, fun m hm => ?_⟩
  · have habsent (x : Xfer) : s.status &&& statusBit s.cfg x d = 0#18 := by
      rw [hbit, State.linkReady_of_absent hd, if_neg Bool.false_ne_true]
    exact ⟨habsent .read, habsent .write⟩
  · refine State.status_and_eq_zero fun x d _ => ?_
    rw [BitVec.and_comm]
    cases x with
    | read => exact (hm d).1
    | write => exact (hm d).2

end Sys2Proof.Machine
end

section
/-! PROOFS. Every slot of every word decodes: a slot fails only on a destination-taking opcode in slot 4,
and slot 4 holds only opcodes whose low two bits are zero (spec/30_encoding.md R123 to R127, R140, R142). -/

namespace Sys2Proof

variable {cfg : Config} {W : Word} {k : Slot}

/-! ## The `XOR` with `IMASK` -/

@[simp] theorem unmask_unmask (cfg : Config) (W : Word) : unmask cfg (unmask cfg W) = W := by
  rw [unmask, unmask, BitVec.xor_assoc, BitVec.xor_self, BitVec.xor_zero]

/-- Settles O4: a word XORed twice with one mask is that word (`unmask_unmask`). -/
theorem imaskXorIsSelfInverse : Obligations.ImaskXorIsSelfInverse :=
  unmask_unmask

/-! ## Slot 4 holds no destination-taking opcode -/

/-- R124: the low two bits of an opcode read from slot 4 are zero. -/
theorem opcode_four_low_eq_zero (cfg : Config) (W : Word) : (opcode cfg W .four).extractLsb' 0 2 = 0 := by
  refine BitVec.eq_of_getLsbD_eq fun j hj => ?_
  simp [opcode, slotBits, hj]

/-- R142, as an admitted configuration has it. -/
theorem Config.opcodeOf_low_ne_zero (h : cfg.ok = true) {op : Op} (hop : op.takesDest = true) :
    (cfg.opcodeOf op).extractLsb' 0 2 ≠ 0 := by
  have hslot4 : cfg.slot4Ok = true := (Bool.and_eq_true_iff.mp h).2
  have hall := (Bool.and_eq_true_iff.mp hslot4).2
  have hmem : op ∈ Op.all := by cases op <;> decide
  simpa [hop] using List.all_eq_true.mp hall op hmem

/-- R142: no mnemonic read from slot 4 takes a destination. -/
theorem takesDest_opAt_opcode_four (h : cfg.ok = true) (W : Word) :
    (cfg.opAt (opcode cfg W .four)).takesDest = false := by
  refine Bool.eq_false_iff.mpr fun hop => Config.opcodeOf_low_ne_zero h hop ?_
  rw [Config.opcodeOf_opAt h, opcode_four_low_eq_zero]

/-! ## Every slot decodes -/

/-- R125: the slots 1 to 3 have a destination field. -/
theorem exists_destField (W : Word) (hk : k ≠ .four) : ∃ d, destField W k = .ok d := by
  cases k with
  | one | two | three => exact ⟨_, rfl⟩
  | four => exact absurd rfl hk

theorem exists_withDest (h : ∃ d, destField W k = .ok d) (f : Dest → Instr) :
    ∃ i, withDest W k f = .ok i := by
  obtain ⟨d, hd⟩ := h
  exact ⟨f d, by rw [withDest, hd]⟩

/-- A slot decodes if it has a destination for the mnemonic in it, where that takes one. -/
theorem exists_decode_of_destField
    (h : (cfg.opAt (opcode cfg W k)).takesDest = true → ∃ d, destField W k = .ok d) :
    ∃ i, decode cfg W k = .ok i := by
  unfold decode
  generalize cfg.opAt (opcode cfg W k) = op at h
  cases op with
  | jump | call | next | ifZero | ifPlus => exact exists_withDest (h rfl) _
  | _ => exact ⟨_, rfl⟩

/-- R140: every word decodes in every slot. -/
theorem exists_decode (h : cfg.ok = true) (W : Word) (k : Slot) : ∃ i, decode cfg W k = .ok i := by
  refine exists_decode_of_destField fun hop => exists_destField W fun hk => ?_
  subst hk
  exact absurd hop (by simp [takesDest_opAt_opcode_four h])

/-- Settles O3: by `exists_decode` every slot decodes; the table is a bijection (`Config.opcodeOf_opAt`). -/
theorem everyWordDecodesInEverySlot : Obligations.EveryWordDecodesInEverySlot :=
  fun _ hok => ⟨exists_decode hok, Config.opcodeOf_opAt hok⟩

end Sys2Proof
end

section
/-! PROOFS. The encoder and the decoder are inverse on each slot: a field written is read back, no field
overlaps another, and the `XOR` with `IMASK` moves no bit (spec/30_encoding.md R121 to R125, R132). -/

namespace Sys2Proof

variable {cfg : Config} {W V : Word} {k : Slot} {i : Instr}

/-! ## Fields of a word -/

/-- Words that agree on the bits of a field have the same field. -/
theorem extractLsb'_congr {lo n : Nat} (h : ∀ j, lo ≤ j → j < lo + n → W.getLsbD j = V.getLsbD j) :
    W.extractLsb' lo n = V.extractLsb' lo n := by
  refine BitVec.eq_of_getLsbD_eq fun j hj => ?_
  simp only [BitVec.getLsbD_extractLsb', hj, decide_true, Bool.true_and]
  exact h _ (by omega) (by omega)

/-- A field reads as what was written into it. -/
theorem extractLsb'_putField (W : Word) {lo n : Nat} (v : BitVec n) (hn : lo + n ≤ 18) :
    (putField W lo n v).extractLsb' lo n = v := by
  refine BitVec.eq_of_getLsbD_eq fun j hj => ?_
  simp [getLsbD_putField W lo n v hn, hj]

/-- Writing a field back changes nothing. -/
theorem putField_extractLsb' (W : Word) {lo n : Nat} (hn : lo + n ≤ 18) :
    putField W lo n (W.extractLsb' lo n) = W := by
  refine BitVec.eq_of_getLsbD_eq fun j _ => ?_
  rw [getLsbD_putField W lo n _ hn]
  split
  · next hj => simp [show j - lo < n by omega, show lo + (j - lo) = j by omega]
  · rfl

/-! ## The opcode of a slot -/

/-- What a slot can hold of an opcode: all of it, or in slot 4 the upper three bits (R124). -/
def fitted (o : BitVec 5) : Slot → BitVec 5
  | .four => (o.extractLsb' 2 3).setWidth 5 <<< 2
  | _ => o

/-- Slot 4 holds the opcodes whose low two bits are zero, every other slot all of them (R124). -/
theorem fitted_eq_self {o : BitVec 5} (h : k = .four → o.extractLsb' 0 2 = 0) : fitted o k = o := by
  cases k with
  | one | two | three => rfl
  | four => exact (by decide : ∀ o : BitVec 5, o.extractLsb' 0 2 = 0 → fitted o .four = o) o (h rfl)

/-- An opcode written into a slot is read back as far as it fits. -/
theorem slotBits_putSlot (D : Word) (k : Slot) (o : BitVec 5) : slotBits (putSlot D k o) k = fitted o k := by
  cases k with
  | one | two | three => exact extractLsb'_putField D o (by decide)
  | four => simp only [slotBits, putSlot, fitted, extractLsb'_putField D _ (show 0 + 3 ≤ 18 by decide)]

/-- Writing the opcode of a slot back changes nothing. -/
theorem putSlot_slotBits (D : Word) (k : Slot) : putSlot D k (slotBits D k) = D := by
  cases k with
  | one | two | three => exact putField_extractLsb' D (by decide)
  | four =>
    have hfield : (slotBits D .four).extractLsb' 2 3 = D.extractLsb' 0 3 := by
      refine BitVec.eq_of_getLsbD_eq fun j hj => ?_
      simp [slotBits, hj, show 2 + j < 5 by omega, show 1 < 2 + j by omega]
    simp only [putSlot, hfield]
    exact putField_extractLsb' D (by decide)

/-- The lowest bit of a slot's opcode (R121). -/
def Slot.low : Slot → Nat
  | .one => 13
  | .two => 8
  | .three => 3
  | .four => 0

/-- The bit above a slot's opcode (R121). -/
def Slot.top : Slot → Nat
  | .one => 18
  | .two => 13
  | .three => 8
  | .four => 3

/-- The opcode bits of a slot are those from `Slot.low` to below `Slot.top`. -/
theorem slotBits_congr (h : ∀ j, k.low ≤ j → j < k.top → W.getLsbD j = V.getLsbD j) :
    slotBits W k = slotBits V k := by
  cases k with
  | one | two | three => exact extractLsb'_congr h
  | four => simp only [slotBits, extractLsb'_congr (lo := 0) (n := 3) h]

/-- The slots do not overlap (R121). -/
theorem Slot.top_le_low_of_ne {k k' : Slot} (h : k ≠ k') : k.top ≤ k'.low ∨ k'.top ≤ k.low := by
  cases k <;> cases k' <;> simp [Slot.low, Slot.top] at h ⊢

/-- An opcode written into a slot leaves the bits outside it. -/
theorem getLsbD_putSlot (D : Word) (o : BitVec 5) {j : Nat} (h : j < k.low ∨ k.top ≤ j) :
    (putSlot D k o).getLsbD j = D.getLsbD j := by
  cases k <;> simp only [Slot.low, Slot.top] at h <;>
    rw [putSlot, getLsbD_putField _ _ _ _ (by decide), if_neg (by omega)]

/-- An opcode written into one slot leaves every other slot. -/
theorem slotBits_putSlot_of_ne (D : Word) {k k' : Slot} (o : BitVec 5) (h : k ≠ k') :
    slotBits (putSlot D k o) k' = slotBits D k' :=
  slotBits_congr fun j hlo hhi => getLsbD_putSlot D o <| by
    have := Slot.top_le_low_of_ne h
    omega

/-- A destination lies below the opcode of its slot (R121). -/
theorem getLsbD_putDest (V : Word) (d : Dest) {j : Nat} (h : d.slot.low ≤ j) :
    (putDest V d).getLsbD j = V.getLsbD j := by
  cases d <;> simp only [Dest.slot, Slot.low] at h <;>
    rw [putDest, getLsbD_putField _ _ _ _ (by decide), if_neg (by omega)]

/-- A destination written leaves the opcodes of its slot and of those before it. -/
theorem opcode_putDest (cfg : Config) (V : Word) {d : Dest} (h : d.slot.low ≤ k.low) :
    opcode cfg (putDest V d) k = opcode cfg V k :=
  slotBits_congr fun j hj _ => by
    rw [getLsbD_unmask, getLsbD_unmask, getLsbD_putDest V d (h.trans hj)]

/-! ## The destination of a slot -/

/-- A destination written is read back. -/
theorem destField_putDest (V : Word) (d : Dest) : destField (putDest V d) d.slot = .ok d := by
  cases d <;> simp only [putDest, Dest.slot, destField] <;> rw [extractLsb'_putField _ _ (by decide)]

/-- A destination read from a slot is one of that slot's width, and writing it back changes nothing. -/
theorem slot_and_putDest_of_destField {d : Dest} (h : destField W k = .ok d) :
    d.slot = k ∧ putDest W d = W := by
  cases k with
  | one | two | three => cases h; exact ⟨rfl, putField_extractLsb' W (by decide)⟩
  | four => cases h

/-! ## Decoding -/

/-- A slot decodes to the instruction whose mnemonic is at the slot's opcode and whose destination, where it
has one, is the slot's: the converse of `decode_op_dest`. -/
theorem decode_eq_ok (hop : cfg.opAt (opcode cfg W k) = i.op)
    (hdest : ∀ d, i.dest = some d → destField W k = .ok d) : decode cfg W k = .ok i := by
  rw [decode, hop]
  cases i with
  | jump d | call d | next d | ifZero d | ifPlus d => simp only [Instr.op, withDest, hdest d rfl]
  | _ => rfl

/-- Decoding reads the opcode and the destination of the slot and nothing else. -/
theorem decode_congr (hop : opcode cfg W k = opcode cfg V k) (hdest : destField W k = destField V k) :
    decode cfg W k = decode cfg V k := by
  simp only [decode, withDest, hop, hdest]

/-! ## Both directions -/

/-- R124, R125: what well-formedness says of the destination and of the opcode. -/
theorem Instr.wf_iff : i.wf cfg k = true ↔
    (∀ d, i.dest = some d → d.slot = k) ∧ (k = .four → (cfg.opcodeOf i.op).extractLsb' 0 2 = 0) := by
  simp only [Instr.wf, Instr.destFits, Instr.opcodeFits, Bool.and_eq_true, Bool.or_eq_true, bne_iff_ne,
    beq_iff_eq, ← imp_iff_not_or]
  refine and_congr_left' ?_
  cases i.dest <;> simp

/-- The opcode that the encoder wrote is read back. -/
theorem opcode_encodeInto (h : i.wf cfg k = true) (W : Word) :
    opcode cfg (encodeInto cfg k i W) k = cfg.opcodeOf i.op := by
  obtain ⟨hdest, hlow⟩ := Instr.wf_iff.mp h
  have hput : opcode cfg (unmask cfg (putSlot (unmask cfg W) k (cfg.opcodeOf i.op))) k =
      cfg.opcodeOf i.op := by
    rw [opcode, unmask_unmask, slotBits_putSlot, fitted_eq_self hlow]
  unfold encodeInto
  cases hd : i.dest with
  | none => exact hput
  | some d =>
    obtain rfl := hdest d hd
    exact (opcode_putDest cfg _ le_rfl).trans hput

/-- The destination that the encoder wrote is read back. -/
theorem destField_encodeInto {d : Dest} (hd : i.dest = some d) (hk : d.slot = k) (W : Word) :
    destField (encodeInto cfg k i W) k = .ok d := by
  subst hk
  simp only [encodeInto, hd, destField_putDest]

/-- Settles O1: the opcode and the destination written are read back, and they make the instruction. -/
theorem decodeOfEncodeIsTheInstruction : Obligations.DecodeOfEncodeIsTheInstruction := by
  intro cfg k i W hok hwf
  refine decode_eq_ok ?_ fun d hd => destField_encodeInto hd ((Instr.wf_iff.mp hwf).1 d hd) W
  rw [opcode_encodeInto hwf, Config.opAt_opcodeOf hok]

/-- Settles O2: the opcode and the destination of a decoded instruction are those of the slot
(`decode_op_dest`), and writing back what was read changes nothing. -/
theorem encodeOfDecodeIsTheWord : Obligations.EncodeOfDecodeIsTheWord := by
  intro cfg k i W hok h
  obtain ⟨hop, hdest⟩ := decode_op_dest h
  have hnum : cfg.opcodeOf i.op = opcode cfg W k := by rw [hop, Config.opcodeOf_opAt hok]
  have hfield : ∀ d, i.dest = some d → destField W k = .ok d := by
    intro d hd
    split at hdest
    · obtain ⟨d', hd', hf⟩ := hdest
      rwa [Option.some.inj (hd.symm.trans hd')]
    · simp [hdest] at hd
  refine ⟨Instr.wf_iff.mpr ⟨fun d hd => (slot_and_putDest_of_destField (hfield d hd)).1, ?_⟩, ?_⟩
  · rintro rfl
    rw [hnum, opcode_four_low_eq_zero]
  · simp only [encodeInto, hnum, opcode, putSlot_slotBits, unmask_unmask]
    cases hd : i.dest with
    | none => rfl
    | some d => exact (slot_and_putDest_of_destField (hfield d hd)).2

end Sys2Proof
end

section
/-! PROOFS. The bits a slot is read from, the words the spec writes out, and what slot 4 can hold
(spec/30_encoding.md R121 to R124, R144; spec/70_reset_and_hazards.md R301). -/

namespace Sys2Proof

variable {cfg : Config} {W V : Word}

/-! ## The bits of a slot -/

/-- A slot whose opcode bits and destination are the same decodes alike, whatever `IMASK` is. -/
theorem decode_congr_of_bits {k : Slot} (hop : ∀ j, k.low ≤ j → j < k.top → W.getLsbD j = V.getLsbD j)
    (hdest : destField W k = destField V k) : decode cfg W k = decode cfg V k :=
  decode_congr (slotBits_congr fun j hlo hhi => by simp only [getLsbD_unmask, hop j hlo hhi]) hdest

/-- Settles O8: the opcode and the destination of each slot lie within the bits named. -/
theorem otherBitsOfAWordAreIgnored : Obligations.OtherBitsOfAWordAreIgnored := by
  intro cfg W V
  refine ⟨fun h => ?_, fun h => ?_, fun h => ?_, fun h => ?_⟩
  · refine decode_congr_of_bits (fun j hlo _ => h j (.inr hlo)) ?_
    exact congrArg (fun d => Except.ok (Dest.slot1 d)) (extractLsb'_congr fun j _ hj => h j (by omega))
  · refine decode_congr_of_bits (fun j _ hhi => h j hhi) ?_
    exact congrArg (fun d => Except.ok (Dest.slot2 d)) (extractLsb'_congr fun j _ hj => h j (by omega))
  · refine decode_congr_of_bits (fun j _ hhi => h j hhi) ?_
    exact congrArg (fun d => Except.ok (Dest.slot3 d)) (extractLsb'_congr fun j _ hj => h j (by omega))
  · exact decode_congr_of_bits (fun j _ hhi => h j hhi) rfl

/-- The source's mask `& 0x1F` keeps the five bits of an opcode. -/
theorem setWidth_and_0x1F (x : BitVec 32) : (x &&& 0x1F#32).setWidth 5 = x.setWidth 5 := by
  rw [BitVec.setWidth_and, show (0x1F#32).setWidth 5 = BitVec.allOnes 5 by decide, BitVec.and_allOnes]

/-- A field of five bits from bit 3 up is what shifting it to bit 15 of the 32-bit form leaves there. -/
theorem extractLsb'_eq_shifts (D : Word) {lo a : Nat} (h : lo + a = 13) :
    D.extractLsb' lo 5 = (D.setWidth 32 <<< 2 <<< a >>> 15).setWidth 5 := by
  refine BitVec.eq_of_getLsbD_eq fun j hj => ?_
  simp [hj, show 15 + j < 32 by omega, show ¬15 + j < a by omega, show ¬15 + j - a ≤ 1 by omega,
    show 15 + j - a - 2 = lo + j by omega]

/-- Shifting the last three bits to bit 17 of the 32-bit form leaves them above two zeros at bit 15. -/
theorem slotBits_four_eq_shifts (D : Word) :
    slotBits D .four = (D.setWidth 32 <<< 2 <<< 15 >>> 15).setWidth 5 := by
  refine BitVec.eq_of_getLsbD_eq fun j hj => ?_
  by_cases h2 : j < 2
  · simp [slotBits, h2, show 15 + j < 17 by omega]
  · simp [slotBits, hj, h2, show 15 + j < 32 by omega, show ¬15 + j < 17 by omega, show j - 2 < 3 by omega,
      show 15 + j - 17 = j - 2 by omega]

/-- Settles O5: the fields of slots 1 to 3 stand at bits 13, 8 and 3, slot 4's above two zeros. -/
theorem opcodeFieldsFollowTheShifts : Obligations.OpcodeFieldsFollowTheShifts := by
  intro cfg W
  simp only [setWidth_and_0x1F]
  have hone := extractLsb'_eq_shifts (unmask cfg W) (lo := 13) (a := 0) rfl
  rw [BitVec.shiftLeft_zero] at hone
  exact ⟨hone, extractLsb'_eq_shifts _ rfl, extractLsb'_eq_shifts _ rfl,
    slotBits_four_eq_shifts _⟩

/-! ## Words written out -/

theorem Config.default_ok : Config.default.ok = true := by decide

/-- Settles O6: the model's decoder run on the six words. -/
theorem wordsOfEveryFamilyDecode : Obligations.WordsOfEveryFamilyDecode := by
  refine ⟨?_, ?_, ?_, ?_, ?_, ?_⟩ <;> decide

/-- The mnemonics whose default numbers are multiples of 4 (R301). -/
theorem default_opAt_four (x : BitVec 3) : Config.default.opAt (x.setWidth 5 <<< 2) ∈
    [Op.ret, .unext, .fetchP, .storeP, .mulStep, .add, .dup, .nop] := by
  revert x
  decide

/-- Settles O7: slot 4 decodes (`exists_decode`), and its mnemonic is one of eight. -/
theorem slotFourHoldsEightInstructions : Obligations.SlotFourHoldsEightInstructions := by
  intro W
  obtain ⟨i, hi⟩ := exists_decode Config.default_ok W .four
  have hop : i.op ∈ [Op.ret, .unext, .fetchP, .storeP, .mulStep, .add, .dup, .nop] := by
    rw [(decode_op_dest hi).1]
    exact default_opAt_four _
  refine ⟨i, ?_, hi⟩
  revert hop
  cases i <;> simp [Instr.op]

end Sys2Proof
end

section
/-! PROOFS. The packing of mnemonics: what stands in each slot of the packed word
(spec/30_encoding.md R157 to R161). -/

namespace Sys2Proof.Machine

variable {cfg : Config} {ks : List Slot} {k : Slot}

/-! ## Opcodes put in place -/

/-- The opcode bits of two words or-ed together. -/
theorem slotBits_or (D E : Word) (k : Slot) : slotBits (D ||| E) k = slotBits D k ||| slotBits E k := by
  cases k <;> simp only [slotBits, BitVec.extractLsb'_or, BitVec.setWidth_or, BitVec.shiftLeft_or_distrib]

/-- Putting an opcode in place is writing it into the zero word. -/
theorem place_eq_putSlot (o : BitVec 5) (k : Slot) : place o k = putSlot 0#18 k o := by
  cases k with
  | one | two | three => simp [place, putSlot, putField]
  | four =>
    have hshift : (o >>> 2).setWidth 18 = (o.extractLsb' 2 3).setWidth 18 := by revert o; decide
    simp [place, putSlot, putField, hshift]

/-- An opcode put in place stands in its own slot, as far as it fits, and in no other. -/
theorem slotBits_place (o : BitVec 5) (k k' : Slot) :
    slotBits (place o k) k' = if k = k' then fitted o k else 0#5 := by
  rw [place_eq_putSlot]
  split
  · next h => subst h; exact slotBits_putSlot 0#18 k o
  · next h => rw [slotBits_putSlot_of_ne _ _ h]; cases k' <;> rfl

/-- The opcodes put in place in the four slots are read back, slot 4's without its low two bits (R124). -/
theorem slotBits_places (w x y z : BitVec 5) :
    let acc := 0#18 ||| place w .one ||| place x .two ||| place y .three ||| place z .four
    slotBits acc .one = w ∧ slotBits acc .two = x ∧ slotBits acc .three = y ∧
      slotBits acc .four = z &&& 0x1C#5 := by
  have hz : fitted z .four = z &&& 0x1C#5 := by revert z; decide
  simp [slotBits_or, slotBits_place, ← hz, fitted]

/-- The opcode of a slot of a packed word is read from what was packed. -/
theorem opcode_unmask (cfg : Config) (acc : Word) (k : Slot) :
    opcode cfg (unmask cfg acc) k = slotBits acc k := by
  rw [opcode, unmask_unmask]

/-- The opcode of the slot of a packed transfer, or of one before it, is read from what was packed. -/
theorem opcode_transfer (cfg : Config) (acc : Word) {d : Dest} (h : d.slot.low ≤ k.low) :
    opcode cfg (putDest (unmask cfg acc) d) k = slotBits acc k := by
  rw [opcode_putDest cfg _ h, opcode_unmask]

/-! ## Packing one mnemonic -/

/-- A mnemonic without a destination in slots 1 to 3 is put in place, and packing goes on. -/
theorem packFrom_plain {op : Op} (hop : op.takesDest = false) (hk : k ≠ .four) (rest : List AsmItem)
    (acc : Word) :
    packFrom cfg (k :: ks) (⟨op, none⟩ :: rest) acc =
      packFrom cfg ks rest (acc ||| place (cfg.opcodeOf op) k) := by
  simp only [packFrom, if_neg hk, hop]

/-- A mnemonic with its destination in slots 1 to 3 ends the line: the destination goes over the word
as it is, and what follows is dropped (R158). -/
theorem packFrom_transfer {op : Op} {v : Nat} {d : Dest} (hop : op.takesDest = true)
    (hd : destOfNat v k = some d) (rest : List AsmItem) (acc : Word) :
    packFrom cfg (k :: ks) (⟨op, some v⟩ :: rest) acc =
      .ok (putDest (unmask cfg (acc ||| place (cfg.opcodeOf op) k)) d, false) := by
  have hk : k ≠ .four := by rintro rfl; cases hd
  simp only [packFrom, if_neg hk, hop, hd]

/-- A fourth mnemonic goes into slot 4, with the diagnostic where it does not fit (R160). -/
theorem packFrom_four (item : AsmItem) (acc : Word) :
    packFrom cfg [.four] [item] acc =
      .ok (unmask cfg (acc ||| place (cfg.opcodeOf item.op) .four), slot4Diag (cfg.opcodeOf item.op)) := by
  simp only [packFrom, if_true, Bool.false_or]

/-- Settles O9: each mnemonic is put in place (`packFrom_plain`, `packFrom_four`), and each place is read
back from its slot (`slotBits_place`). -/
theorem packedMnemonicsDecode : Obligations.PackedMnemonicsDecode := by
  intro cfg w x y z hw hx hy
  rw [pack, slots, packFrom_plain hw (by decide), packFrom_plain hx (by decide),
    packFrom_plain hy (by decide), packFrom_four]
  refine ⟨_, rfl, ?_⟩
  simpa only [opcode_unmask] using
    slotBits_places (cfg.opcodeOf w) (cfg.opcodeOf x) (cfg.opcodeOf y) (cfg.opcodeOf z)

/-- Settles O10: the transfer ends the line (`packFrom_transfer`), and its destination lies below the
opcodes (`opcode_transfer`). -/
theorem packedTransferCarriesItsDestination : Obligations.PackedTransferCarriesItsDestination := by
  intro cfg x y op d rest hx hy hop
  refine ⟨?_, ?_, ?_⟩
  · rw [pack, slots, packFrom_transfer hop rfl]
    refine ⟨_, rfl, ?_, destField_putDest _ (.slot1 _)⟩
    rw [opcode_transfer _ _ (by simp [Dest.slot, Slot.low])]
    simp [slotBits_place, fitted]
  · rw [pack, slots, packFrom_plain hx (by decide), packFrom_transfer hop rfl]
    refine ⟨_, rfl, ?_, ?_, destField_putDest _ (.slot2 _)⟩ <;>
      rw [opcode_transfer _ _ (by simp [Dest.slot, Slot.low])] <;>
      simp [slotBits_or, slotBits_place, fitted]
  · rw [pack, slots, packFrom_plain hx (by decide), packFrom_plain hy (by decide), packFrom_transfer hop rfl]
    refine ⟨_, rfl, ?_, ?_, ?_, destField_putDest _ (.slot3 _)⟩ <;>
      rw [opcode_transfer _ _ (by simp [Dest.slot, Slot.low])] <;>
      simp [slotBits_or, slotBits_place, fitted]

end Sys2Proof.Machine
end

section
/-! PROOFS. A rotation of a stack together with its pointer commutes with every push and pop, hence with every
instruction and every step (spec/10_state.md R34 d). -/

namespace Sys2Proof.Machine

variable (s : State) (n m : BitVec 3)

/-! ## Cells -/

/-- The rotated pointer names in the rotated cells what the pointer named. -/
theorem Cells.get_rotate_add (x : Cells) (p : BitVec 3) : (x.rotate n).get (p + n) = x.get p := by
  rw [Cells.get_rotate, BitVec.add_sub_cancel]

/-- Writing at the rotated pointer is rotating what was written at the pointer. -/
theorem Cells.set_rotate (x : Cells) (p : BitVec 3) (v : Word) :
    (x.rotate n).set (p + n) v = (x.set p v).rotate n := by
  refine Cells.ext_get fun j => ?_
  simp only [Cells.get_set, Cells.get_rotate, eq_sub_iff_add_eq]

/-! ## The stacks -/

theorem rotate_dpush (v : Word) : (s.rotate n m).dpush v = (s.dpush v).rotate n m := by
  simp only [State.dpush, State.rotate, Cells.set_rotate, add_right_comm]

theorem rotate_dpop : (s.rotate n m).dpop = s.dpop.rotate n m := by
  simp only [State.dpop, State.rotate, add_sub_right_comm, Cells.get_rotate_add]

theorem rotate_rpush (v : Word) : (s.rotate n m).rpush v = (s.rpush v).rotate n m := by
  simp only [State.rpush, State.rotate, Cells.set_rotate, add_right_comm]

theorem rotate_rpop : (s.rotate n m).rpop = s.rpop.rotate n m := by
  simp only [State.rpop, State.rotate, add_sub_right_comm, Cells.get_rotate_add]

/-! ## Accesses -/

/-- Memory, the router and the channels do not see the stacks. -/
theorem rotate_ioBlind : IoBlind (State.rotate n m) where
  cfg _ := rfl
  rom _ := rfl
  update _ _ _ _ _ := rfl

/-- A fetch whose address register update leaves the stacks alone commutes with the rotation. -/
theorem rotate_fetchVia (addr : Addr) {bump : State → State}
    (hbump : ∀ u, bump (u.rotate n m) = (bump u).rotate n m) :
    (s.rotate n m).fetchVia addr bump = mapNext (State.rotate n m) (s.fetchVia addr bump) :=
  (rotate_ioBlind n m).readThen s addr fun v u => by rw [hbump, rotate_dpush]; rfl

/-- A store whose address register update leaves the stacks alone commutes with the rotation. -/
theorem rotate_storeVia (addr : Addr) {bump : State → State}
    (hbump : ∀ u, bump (u.rotate n m) = (bump u).rotate n m) :
    (s.rotate n m).storeVia addr bump = mapNext (State.rotate n m) (s.storeVia addr bump) := by
  unfold State.storeVia
  rw [State.rotate_t, (rotate_ioBlind n m).memWrite, hbump, rotate_dpop]
  rfl

/-! ## Instructions and steps -/

/-- No instruction observes the rotation. -/
theorem rotate_exec (i : Instr) : exec i (s.rotate n m) = mapNext (State.rotate n m) (exec i s) := by
  cases i with
  | fetchP | fetchPlus | fetchB | fetchA => exact rotate_fetchVia s n m _ fun _ => rfl
  | storeP | storePlus | storeB | storeA => exact rotate_storeVia s n m _ fun _ => rfl
  | ret => simp only [exec, execRet, rotate_rpop]; rfl
  | call d => simp only [exec, execCall, rotate_rpush]; rfl
  | unext => simp only [exec, execUnext, rotate_rpop, apply_ite (mapNext _)]; rfl
  | next d => simp only [exec, execNext, rotate_rpop, apply_ite (mapNext _)]; rfl
  | ifZero d => simp only [exec, execIfZero, apply_ite (mapNext _)]; rfl
  | ifPlus d => simp only [exec, execIfPlus, apply_ite (mapNext _)]; rfl
  | add => simp only [exec, execAdd, rotate_dpop]; rfl
  | and => simp only [exec, execAnd, State.binary, rotate_dpop]; rfl
  | xor => simp only [exec, execXor, State.binary, rotate_dpop]; rfl
  | drop => simp only [exec, execDrop, rotate_dpop]; rfl
  | dup => simp only [exec, execDup, rotate_dpush]; rfl
  | pop => simp only [exec, execPop, rotate_rpop, rotate_dpush]; rfl
  | readA => simp only [exec, execReadA, rotate_dpush]; rfl
  | push => simp only [exec, execPush, rotate_dpop, rotate_rpush]; rfl
  | setB => simp only [exec, execSetB, rotate_dpop]; rfl
  | setA => simp only [exec, execSetA, rotate_dpop]; rfl
  | ex | jump | mulStep | shl | shr | inv | nop => rfl
  -- `over`, whose name Mathlib reserves as a word of its own
  | _ => simp only [exec, execOver, rotate_dpush]; rfl

/-- The fetch step does not observe the rotation. -/
theorem rotate_fetchStep : fetchStep (s.rotate n m) = mapNext (State.rotate n m) (fetchStep s) := by
  unfold fetchStep
  rw [apply_ite (mapNext _)]
  exact if_congr Iff.rfl rfl ((rotate_ioBlind n m).readThen s s.addrP fun _ _ => rfl)

/-- The slot step does not observe the rotation: it decodes the same word. -/
theorem rotate_slotStep (k : Slot) :
    slotStep k (s.rotate n m) = mapNext (State.rotate n m) (slotStep k s) := by
  unfold slotStep
  rw [State.rotate_cfg, State.rotate_i]
  cases decode s.cfg s.i k with
  | ok i => exact rotate_exec s n m i
  | error e => rfl

/-- Settles O33: the step is a refusal, `rotate_fetchStep` or `rotate_slotStep`. -/
theorem stackRotationIsUnobservable : Obligations.StackRotationIsUnobservable := by
  intro s n m
  unfold step
  rw [State.rotate_cfg, State.rotate_k, apply_ite (mapNext _)]
  refine if_congr Iff.rfl ?_ rfl
  cases s.k with
  | fetch => exact rotate_fetchStep s n m
  | slot k => exact rotate_slotStep s n m k

end Sys2Proof.Machine
end

section
/-! SUPPORT. What an instruction can do, said once: a read and a push, a write and a pop, or no access at all;
and what none of them changes (spec/43_memory_access.md R249). -/

namespace Sys2Proof.Machine

variable {s t : State} {i : Instr}

/-- The update of an address register changes `p` and `a` at most. -/
theorem afterAccess_frame (i : Instr) (s : State) :
    afterAccess i s = { s with p := (afterAccess i s).p, a := (afterAccess i s).a } := by
  cases i <;> rfl

/-- Every way an instruction answers a next state. -/
theorem exec_cases (h : exec i s = .next t) :
    (∃ addr, fetchAddr i s = some addr ∧ ((s.blocked addr = true ∧ t = s) ∨
      ∃ v u, s.memRead addr = some (v, u) ∧ t = ((afterAccess i u).dpush v).advance)) ∨
    (∃ addr, storeAddr i s = some addr ∧ t = (afterAccess i (s.memWrite addr s.t)).dpop.advance) ∨
    (fetchAddr i s = none ∧ storeAddr i s = none) := by
  cases hread : fetchAddr i s with
  | some addr =>
    rw [exec_of_fetchAddr hread] at h
    exact .inl ⟨addr, rfl, (State.fetchVia_cases h).imp_left (.imp_left State.memRead_eq_none.mp)⟩
  | none =>
    cases hwrite : storeAddr i s with
    | some addr =>
      rw [exec_of_storeAddr hwrite] at h
      exact .inr (.inl ⟨addr, rfl, (Host.Outcome.next.inj h).symm⟩)
    | none => exact .inr (.inr ⟨rfl, rfl⟩)

/-- No instruction changes the latched word (R26). -/
theorem exec_latch (h : exec i s = .next t) : t.i = s.i := by
  rcases exec_cases h with ⟨addr, -, ⟨-, rfl⟩ | ⟨v, u, hm, rfl⟩⟩ | ⟨addr, -, rfl⟩ | ⟨hread, hwrite⟩
  · rfl
  · rw [afterAccess_frame, State.memRead_frame hm]; rfl
  · obtain ⟨m, e, d, hw⟩ := State.memWrite_frame addr s.t s
    rw [afterAccess_frame, hw]; rfl
  · cases i with
    | fetchP | fetchPlus | fetchB | fetchA => cases hread
    | storeP | storePlus | storeB | storeA => cases hwrite
    | unext => simp only [exec, execUnext] at h; split at h <;> cases h <;> rfl
    | next d => simp only [exec, execNext] at h; split at h <;> cases h <;> rfl
    | ifZero d => simp only [exec, execIfZero] at h; split at h <;> cases h <;> rfl
    | ifPlus d => simp only [exec, execIfPlus] at h; split at h <;> cases h <;> rfl
    | _ => cases h; rfl

end Sys2Proof.Machine
end

section
/-! PROOFS. What no step and no run changes: ROM, the configuration, which channels are there, and the
canonical form of the memories (spec/10_state.md R36, R45, R47). -/

namespace Sys2Proof.Machine

variable {s t u : State} {i : Instr}

/-! ## What is kept -/

/-- `t` has the ROM, the configuration and the channels of `s`, and canonical memories if `s` has. -/
structure Kept (s t : State) : Prop where
  rom : t.rom = s.rom
  cfg : t.cfg = s.cfg
  present : ∀ ch, t.present ch = s.present ch
  inv : s.Inv → t.Inv

theorem Kept.refl (s : State) : Kept s s := ⟨rfl, rfl, fun _ => rfl, id⟩

theorem Kept.trans (h : Kept s t) (h' : Kept t u) : Kept s u :=
  ⟨h'.rom.trans h.rom, h'.cfg.trans h.cfg, fun ch => (h'.present ch).trans (h.present ch), h'.inv ∘ h.inv⟩

/-- Which channels are there is told by the environment. -/
theorem State.present_congr (h : t.env = s.env) (ch : Chan) : t.present ch = s.present ch := by
  cases ch <;> simp only [State.present, State.link, h]

/-- What changes no ROM and no RAM keeps the canonical form. -/
theorem Kept.of_present (hrom : t.rom = s.rom) (hcfg : t.cfg = s.cfg) (hram : t.ram = s.ram)
    (hpresent : ∀ ch, t.present ch = s.present ch) : Kept s t :=
  ⟨hrom, hcfg, hpresent, fun h => by rwa [State.Inv, hrom, hram]⟩

/-- What changes neither memory nor the environment keeps all. -/
theorem Kept.of_env (hrom : t.rom = s.rom) (hcfg : t.cfg = s.cfg) (hram : t.ram = s.ram)
    (henv : t.env = s.env) : Kept s t :=
  .of_present hrom hcfg hram (State.present_congr henv)

/-! ## Accesses -/

/-- An answer keeps the channels. -/
theorem State.settle_present (ch c : Chan) (x : Answer 18) (s : State) :
    (s.settle ch x).2.present c = s.present c := by
  rw [State.settle_frame]; exact State.present_congr rfl c

/-- A read keeps the channels. -/
theorem State.memRead_present {addr : Addr} {v : Word} (h : s.memRead addr = some (v, u)) (c : Chan) :
    u.present c = s.present c := by
  unfold State.memRead at h
  split at h
  · cases h; rfl
  · cases h; rfl
  · rcases State.ioRead_cases h with ⟨_, _, rfl⟩ | ⟨_, _, _, rfl⟩ | ⟨_, _, hserve⟩
    · rfl
    · exact State.present_congr rfl c
    · obtain ⟨_, ch, _, _, x, _, _, _, _, hsettle⟩ := State.service_cases hserve
      have hu : u = ((s.takeAnswer ch).settle ch x).2 := by rw [hsettle]
      rw [hu, State.settle_present, State.takeAnswer_present]

/-- A read keeps all. -/
theorem memRead_kept {addr : Addr} {v : Word} (h : s.memRead addr = some (v, u)) : Kept s u := by
  have hpresent := State.memRead_present h
  have hframe := State.memRead_frame h
  exact .of_present (by rw [hframe]) (by rw [hframe]) (by rw [hframe]) hpresent

/-- Sending to several channels keeps them where they are. -/
theorem State.sendAll_present (l : List (Chan × Word)) (v : Word) (s : State) (c : Chan) :
    (l.foldl (fun s e => s.send e.1 v) s).present c = s.present c := by
  induction l generalizing s with
  | nil => rfl
  | cons e l ih => rw [List.foldl_cons, ih, State.send_present]

/-- A write to the channels keeps all. -/
theorem ioWrite_kept (addr : Addr) (v : Word) (s : State) : Kept s (s.ioWrite addr v) := by
  have hpresent (c : Chan) : (s.ioWrite addr v).present c = s.present c := by
    unfold State.ioWrite
    split
    · exact State.present_congr rfl c
    · exact State.sendAll_present _ v s c
  obtain ⟨e, d, hframe⟩ := State.ioWrite_frame addr v s
  exact .of_present (by rw [hframe]) (by rw [hframe]) (by rw [hframe]) hpresent

/-- A write keeps all: in RAM it writes a cell that exists. -/
theorem memWrite_kept (addr : Addr) (v : Word) (s : State) : Kept s (s.memWrite addr v) := by
  unfold State.memWrite
  split
  · exact ⟨rfl, rfl, State.present_congr rfl, fun h => ⟨Memory.write_wf h.1 (cell_lt addr) v, h.2⟩⟩
  · exact .of_env rfl rfl rfl rfl
  · exact ioWrite_kept addr v s

/-! ## Steps and runs -/

/-- The update of an address register keeps all. -/
theorem afterAccess_kept (i : Instr) (s : State) : Kept s (afterAccess i s) := by
  rw [afterAccess_frame]; exact .of_env rfl rfl rfl rfl

/-- An instruction keeps all. -/
theorem exec_kept (h : exec i s = .next t) : Kept s t := by
  rcases exec_cases h with ⟨addr, -, ⟨-, rfl⟩ | ⟨v, u, hm, rfl⟩⟩ | ⟨addr, -, rfl⟩ | ⟨hread, hwrite⟩
  · exact .refl _
  · exact (memRead_kept hm).trans ((afterAccess_kept i u).trans (.of_env rfl rfl rfl rfl))
  · exact (memWrite_kept addr s.t s).trans ((afterAccess_kept i _).trans (.of_env rfl rfl rfl rfl))
  · rw [exec_frame_of_no_access hread hwrite h]; exact .of_env rfl rfl rfl rfl

/-- A step keeps all. -/
theorem step_kept (h : step s = .next t) : Kept s t := by
  obtain ⟨-, ⟨-, -, hfetch⟩ | ⟨k, i, -, -, hexec⟩⟩ := step_cases h
  · obtain ⟨-, ⟨-, rfl⟩ | ⟨w, u, hm, rfl⟩⟩ := fetchStep_cases hfetch
    · exact .refl _
    · exact (memRead_kept hm).trans (.of_env rfl rfl rfl rfl)
  · exact exec_kept hexec

/-- The value set at a direction is the one found there. -/
theorem PerDir.get_set_self {α : Type} (x : PerDir α) (d : Dir) (v : α) : (x.set d v).get d = v := by
  cases d <;> rfl

/-- A value set at one direction leaves the others. -/
theorem PerDir.get_set_of_ne {α : Type} (x : PerDir α) (v : α) {d d' : Dir} (h : d ≠ d') :
    (x.set d v).get d' = x.get d' := by
  revert h
  cases d <;> cases d' <;> simp [PerDir.set, PerDir.get]

/-- A change of a neighbour link that is there keeps all. -/
theorem onLink_kept (d : Dir) (f : Link → Link) (s : State) : Kept s (s.onLink d f) := by
  cases hd : s.link d with
  | none => simp only [State.onLink, hd]; exact .refl s
  | some l =>
    simp only [State.onLink, hd]
    refine .of_present rfl rfl rfl fun ch => ?_
    cases ch with
    | link d' =>
      simp only [State.present]
      by_cases h : d = d'
      · subst h
        rw [hd, State.link, State.setLink_env, PerDir.get_set_self]
        rfl
      · rw [State.link, State.setLink_env, PerDir.get_set_of_ne _ _ h]
        rfl
    | _ => rfl

theorem onStdin_kept (f : HostIn → HostIn) (s : State) : Kept s (s.onStdin f) :=
  .of_present rfl rfl rfl fun ch => by cases ch <;> simp [State.present, State.link, State.onStdin]

theorem onStdout_kept (f : HostOut → HostOut) (s : State) : Kept s (s.onStdout f) :=
  .of_present rfl rfl rfl fun ch => by cases ch <;> simp [State.present, State.link, State.onStdout]

theorem onTty_kept (f : Console → Console) (s : State) : Kept s (s.onTty f) :=
  .of_present rfl rfl rfl fun ch => by cases ch <;> simp [State.present, State.link, State.onTty]

/-- A move of the environment keeps all. -/
theorem envMove_kept (x : EnvMove) (s : State) : Kept s (s.envMove x) := by
  cases x with
  | deliver d x => exact onLink_kept d _ s
  | deliverStdin x => exact onStdin_kept _ s
  | deliverTty x => exact onTty_kept _ s
  | writeReady d ready => exact onLink_kept d _ s
  | breakRecv ch =>
    cases ch with
    | link d => exact onLink_kept d _ s
    | stdin => exact onStdin_kept _ s
    | stdout => exact .refl s
    | tty => exact onTty_kept _ s
  | sendFails ch failing =>
    cases ch with
    | link d => exact onLink_kept d _ s
    | stdin => exact .refl s
    | stdout => exact onStdout_kept _ s
    | tty => exact onTty_kept _ s

/-- An event keeps all. -/
theorem event_kept {e : Event} (h : s.event e = .next t) : Kept s t := by
  cases e with
  | node => exact step_kept h
  | env x => cases h; exact envMove_kept x s

/-- A run keeps all. -/
theorem runEvents_kept {es : List Event} (h : runEvents es s = .next t) : Kept s t := by
  induction es generalizing s with
  | nil => cases h; exact .refl _
  | cons e es ih =>
    unfold runEvents at h
    split at h
    · next u hu => exact (event_kept hu).trans (ih h)
    · cases h
    · cases h

/-- Settles O57: `step_kept`. -/
theorem everyStepKeepsTheMemoriesCanonical : Obligations.EveryStepKeepsTheMemoriesCanonical :=
  fun _ _ hinv h => (step_kept h).inv hinv

/-- Settles O59: `runEvents_kept`. -/
theorem runsKeepRomAndConfiguration : Obligations.RunsKeepRomAndConfiguration := by
  intro es s t hinv h
  obtain ⟨hrom, hcfg, hpresent, hkeep⟩ := runEvents_kept h
  exact ⟨hrom, hcfg, hpresent, hkeep hinv⟩

/-- Settles O16: a slot step is an instruction, which keeps the latch (`exec_latch`), the configuration and
ROM (`exec_kept`). -/
theorem slotStepsKeepTheLatchedWord : Obligations.SlotStepsKeepTheLatchedWord := by
  intro s t k hk h
  obtain ⟨-, ⟨hfetch, -, -⟩ | ⟨k, i, -, -, hexec⟩⟩ := step_cases h
  · simp [hk] at hfetch
  · exact ⟨exec_latch hexec, (exec_kept hexec).cfg, (exec_kept hexec).rom⟩

/-- Settles O45: `exec_frame_of_no_access`, field by field. -/
theorem otherInstructionsMakeNoAccess : Obligations.OtherInstructionsMakeNoAccess := by
  intro i s t hread hwrite h
  rw [exec_frame_of_no_access hread hwrite h]
  exact ⟨rfl, rfl, rfl, rfl⟩

end Sys2Proof.Machine
end

section
/-! PROOFS. The steps: when one stops, what a fetch step does, which slot follows, and when a step changes
nothing (spec/40_control.md R170 to R175, R179). -/

namespace Sys2Proof.Machine

variable {s t u : State} {i : Instr} {addr : Addr}

/-! ## The two kinds of step -/

theorem step_of_fetch (hok : s.cfg.ok = true) (hk : s.k = .fetch) : step s = fetchStep s := by
  simp only [step, hok, hk, if_true]

/-- The slot step is the instruction decoded and nothing around it (R172). -/
theorem step_of_slot {k : Slot} (hok : s.cfg.ok = true) (hk : s.k = .slot k)
    (hd : decode s.cfg s.i k = .ok i) : step s = exec i s := by
  simp only [step, hok, hk, if_true, slotStep, hd]

/-- Settles O11: `step_of_slot`. -/
theorem stepRunsTheDecodedInstruction : Obligations.StepRunsTheDecodedInstruction :=
  fun _ _ _ => step_of_slot

/-! ## The fetch step -/

/-- A fetch step whose read waits leaves the state (R173; log 8). -/
theorem fetchStep_of_blocked (hhalt : s.halt = false) (h : s.memRead s.addrP = none) :
    fetchStep s = .next s := by
  simp [fetchStep, State.readThen, hhalt, h]

/-- A fetch step whose read completes latches the word over the state the read leaves (R171). -/
theorem fetchStep_of_read {w : Word} (hhalt : s.halt = false) (h : s.memRead s.addrP = some (w, u)) :
    fetchStep s =
      .next { u with i := w, p := inc7 s.p, k := if u.halt then .fetch else .slot .one } := by
  have hp : u.p = s.p := by rw [State.memRead_frame h]
  simp [fetchStep, State.readThen, State.bumpP, hhalt, h, hp]

/-- Settles O12: `fetchStep_of_read`; a read of RAM or ROM leaves the state, its `halt` clear. -/
theorem fetchStepLatchesTheWord : Obligations.FetchStepLatchesTheWord := by
  intro s hok hk hhalt
  rw [step_of_fetch hok hk]
  refine ⟨fun hram => ?_, fun hrom => ?_, fun w u => fetchStep_of_read hhalt⟩
  · simpa [hhalt] using fetchStep_of_read hhalt (State.memRead_of_ram hram)
  · simpa [hhalt] using fetchStep_of_read hhalt (State.memRead_of_rom hrom)

/-! ## When a step stops -/

/-- No instruction stops the node (R260). -/
theorem exists_exec_next (i : Instr) (s : State) : ∃ t, exec i s = .next t := by
  cases i with
  | fetchP | fetchPlus | fetchB | fetchA => exact State.readThen_next _ _
  | unext => simp only [exec, execUnext]; split <;> exact ⟨_, rfl⟩
  | next d => simp only [exec, execNext]; split <;> exact ⟨_, rfl⟩
  | ifZero d => simp only [exec, execIfZero]; split <;> exact ⟨_, rfl⟩
  | ifPlus d => simp only [exec, execIfPlus]; split <;> exact ⟨_, rfl⟩
  | _ => exact ⟨_, rfl⟩

/-- Settles O13: a fetch step stops only a node whose `halt` is set, and every slot decodes
(`exists_decode`) to an instruction that goes on (`exists_exec_next`). -/
theorem whenAStepStops : Obligations.WhenAStepStops := by
  intro s
  split
  · next hbad => simp [step, hbad]
  · next hok =>
    rw [Bool.not_eq_false] at hok
    cases hk : s.k with
    | fetch =>
      rw [step_of_fetch hok hk]
      cases hhalt : s.halt with
      | true => simp [fetchStep, hhalt]
      | false => simpa [fetchStep, hhalt] using State.readThen_next _ _
    | slot k =>
      obtain ⟨i, hd⟩ := exists_decode hok s.i k
      simpa [step_of_slot hok hk hd] using exists_exec_next i s

/-! ## Which slot follows -/

/-- After a fetch instruction the next slot follows, unless it waits. -/
theorem exec_phase_of_fetch (hread : fetchAddr i s = some addr) (h : exec i s = .next t) :
    t.k = s.k.next ∨ (t = s ∧ ∃ addr, fetchAddr i s = some addr ∧ s.blocked addr = true) := by
  rw [exec_of_fetchAddr hread] at h
  rcases State.fetchVia_cases h with ⟨hwait, rfl⟩ | ⟨v, u, hm, rfl⟩
  · exact .inr ⟨rfl, addr, hread, State.memRead_eq_none.mp hwait⟩
  · rw [afterAccess_frame, State.memRead_frame hm]
    exact .inl rfl

/-- After a store the next slot follows. -/
theorem exec_phase_of_store (hwrite : storeAddr i s = some addr) (h : exec i s = .next t) :
    t.k = s.k.next := by
  rw [exec_of_storeAddr hwrite, State.storeVia, afterAccess_frame] at h
  obtain ⟨m, e, d, hw⟩ := State.memWrite_frame addr s.t s
  cases h
  rw [hw]
  rfl

/-- The phase after a `next`: both its branches end the word. -/
theorem execNext_phase {d : Dest} (h : execNext d s = .next t) : t.k = .fetch := by
  unfold execNext at h
  split at h <;> cases h <;> rfl

/-- The phase after an `if`. -/
theorem execIfZero_phase {d : Dest} (h : execIfZero d s = .next t) : t.k = .fetch := by
  unfold execIfZero at h
  split at h <;> cases h <;> rfl

/-- The phase after a `-if`. -/
theorem execIfPlus_phase {d : Dest} (h : execIfPlus d s = .next t) : t.k = .fetch := by
  unfold execIfPlus at h
  split at h <;> cases h <;> rfl

/-- The phase after an `unext`, and its count where it branches. -/
theorem execUnext_cases (h : execUnext s = .next t) :
    (s.r = 0 ∧ t.k = s.k.next) ∨ (s.r ≠ 0 ∧ t.k = .slot .one ∧ t.r = s.r - 1) := by
  unfold execUnext at h
  split at h
  · next hr => cases h; exact .inl ⟨hr, rfl⟩
  · next hr => cases h; exact .inr ⟨hr, rfl, rfl⟩

/-- The control transfers that end the word (R133). -/
abbrev endsWord : List Op := [.jump, .call, .next, .ifZero, .ifPlus, .ret, .ex]

/-- The phase after an instruction, by its kind. -/
theorem exec_phase (h : exec i s = .next t) :
    if i.op ∈ endsWord then t.k = .fetch
    else if i = .unext then t.k = if s.r = 0 then s.k.next else .slot .one
    else t.k = s.k.next ∨ (t = s ∧ ∃ addr, fetchAddr i s = some addr ∧ s.blocked addr = true) := by
  cases i with
  | next d => exact execNext_phase h
  | ifZero d => exact execIfZero_phase h
  | ifPlus d => exact execIfPlus_phase h
  | jump | call | ret | ex => cases h; rfl
  | unext =>
    rcases execUnext_cases h with ⟨hr, hk⟩ | ⟨hr, hk, -⟩
    · exact hk.trans (if_pos hr).symm
    · exact hk.trans (if_neg hr).symm
  | fetchP | fetchPlus | fetchB | fetchA => exact exec_phase_of_fetch rfl h
  | storeP | storePlus | storeB | storeA => exact .inl (exec_phase_of_store rfl h)
  | _ => cases h; exact .inl rfl

/-- Settles O15: `exec_phase`. -/
theorem controlTransfersEndTheWord : Obligations.ControlTransfersEndTheWord :=
  ⟨rfl, fun _ _ _ => exec_phase⟩

/-! ## A step that changes nothing -/

theorem Phase.next_slot_ne (k : Slot) : (Phase.slot k).next ≠ .slot k := by
  cases k <;> decide

/-- An instruction in a slot that leaves the state is a fetch that waits. -/
theorem blocked_of_exec_eq_self {k : Slot} (hk : s.k = .slot k) (h : exec i s = .next s) :
    ∃ addr, fetchAddr i s = some addr ∧ s.blocked addr = true := by
  have hphase := exec_phase h
  have hnext : s.k ≠ s.k.next := by rw [hk]; exact (Phase.next_slot_ne k).symm
  split at hphase
  · simp [hk] at hphase
  · split at hphase
    · next hi =>
      subst hi
      rcases execUnext_cases h with ⟨-, hsame⟩ | ⟨-, -, hcount⟩
      · exact absurd hsame hnext
      · bv_omega
    · exact (hphase.resolve_left hnext).2

/-- A fetch step that leaves the state waits: otherwise the sequencer would leave the fetch boundary. -/
theorem blocked_of_fetchStep_eq_self (hk : s.k = .fetch) (h : fetchStep s = .next s) :
    s.halt = false ∧ s.blocked s.addrP = true := by
  obtain ⟨hhalt, ⟨hwait, -⟩ | ⟨w, u, -, hs⟩⟩ := fetchStep_cases h
  · exact ⟨hhalt, State.memRead_eq_none.mp hwait⟩
  · have hu : u.halt = false := by rw [← hhalt, hs]
    rw [hs] at hk
    simp [hu] at hk

/-- Settles O14: only a held step leaves the state (`blocked_of_fetchStep_eq_self`,
`blocked_of_exec_eq_self`), and a held one does, its read giving nothing. -/
theorem aStepThatChangesNothingIsHeld : Obligations.AStepThatChangesNothingIsHeld := by
  intro s
  constructor
  · intro h
    obtain ⟨hok, ⟨hk, -, hfetch⟩ | ⟨k, i, hk, hd, hexec⟩⟩ := step_cases h
    · obtain ⟨hhalt, hwait⟩ := blocked_of_fetchStep_eq_self hk hfetch
      simp [hok, State.held, State.nextRead, hk, hhalt, hwait]
    · obtain ⟨addr, hread, hwait⟩ := blocked_of_exec_eq_self hk hexec
      simp [hok, State.held, State.nextRead, hk, hd, hread, hwait]
  · rintro ⟨hok, hheld⟩
    cases hread : s.nextRead with
    | none => simp [State.held, hread] at hheld
    | some addr =>
      have hwait : s.memRead addr = none := by
        rw [State.memRead_eq_none]
        simpa [State.held, hread] using hheld
      cases hk : s.k with
      | fetch =>
        obtain ⟨hhalt, rfl⟩ : s.halt = false ∧ s.addrP = addr := by simpa [State.nextRead, hk] using hread
        rw [step_of_fetch hok hk, fetchStep_of_blocked hhalt hwait]
      | slot k =>
        obtain ⟨i, hd⟩ := exists_decode hok s.i k
        have haddr : fetchAddr i s = some addr := by simpa [State.nextRead, hk, hd] using hread
        rw [step_of_slot hok hk hd, exec_of_fetchAddr haddr, State.fetchVia_of_blocked hwait]

end Sys2Proof.Machine
end

section
/-! PROOFS. What changes P9 and the log of diagnostics (spec/10_state.md R39; spec/60_exceptions.md R263,
R264). -/

namespace Sys2Proof.Machine

variable {s t u : State} {i : Instr} {addr : Addr}

/-! ## P9 -/

/-- The increment of `p` stays in its bank, so it keeps P9 (R67). -/
theorem inc7_p9 (p : BitVec 10) : (inc7 p).getLsbD 9 = p.getLsbD 9 := by
  unfold inc7
  split
  · rfl
  · simp

/-- The update of an address register keeps P9. -/
theorem afterAccess_p9 (i : Instr) (s : State) : (afterAccess i s).p9 = s.p9 := by
  cases i with
  | fetchP | storeP => exact inc7_p9 s.p
  | _ => rfl

/-- An instruction that does not end the word keeps P9. -/
theorem exec_p9 (hop : i.op ∉ endsWord) (h : exec i s = .next t) : t.p9 = s.p9 := by
  rcases exec_cases h with ⟨addr, -, ⟨-, rfl⟩ | ⟨v, u, hm, rfl⟩⟩ | ⟨addr, -, rfl⟩ | ⟨hread, hwrite⟩
  · rfl
  · exact (afterAccess_p9 i u).trans (by rw [State.memRead_frame hm]; rfl)
  · obtain ⟨m, e, d, hw⟩ := State.memWrite_frame addr s.t s
    exact (afterAccess_p9 i _).trans (by rw [hw]; rfl)
  · cases i with
    | jump | call | next | ifZero | ifPlus | ret | ex => simp [Instr.op] at hop
    | fetchP | fetchPlus | fetchB | fetchA => cases hread
    | storeP | storePlus | storeB | storeA => cases hwrite
    | unext => simp only [exec, execUnext] at h; split at h <;> cases h <;> rfl
    | _ => cases h; rfl

/-- Settles O17: the increment of a fetch step keeps P9 (`inc7_p9`), and so does every instruction but the
seven (`exec_p9`). -/
theorem onlyTransfersChangeP9 : Obligations.OnlyTransfersChangeP9 := by
  intro s t h hne
  obtain ⟨-, ⟨-, -, hfetch⟩ | ⟨k, i, hk, hd, hexec⟩⟩ := step_cases h
  · obtain ⟨-, ⟨-, rfl⟩ | ⟨w, u, hm, rfl⟩⟩ := fetchStep_cases hfetch
    · exact absurd rfl hne
    · refine absurd ((inc7_p9 u.p).trans ?_) hne
      rw [State.memRead_frame hm]; rfl
  · exact ⟨k, i, hk, hd, by_contra fun hop => hne (exec_p9 hop hexec)⟩

/-! ## Diagnostics -/

/-- An answer records one diagnostic at most. -/
theorem State.settle_diags (ch : Chan) (x : Answer 18) (s : State) :
    (s.settle ch x).2.diags = s.diags ∨ ∃ d, (s.settle ch x).2.diags = d :: s.diags := by
  cases x with
  | word v => exact .inl rfl
  | err => exact .inr ⟨_, rfl⟩
  | eos =>
    by_cases hc : ch = .stdin ∨ ch = .tty
    · exact .inl (by simp [State.settle, hc])
    · exact .inr ⟨_, by simp [State.settle, hc]; rfl⟩

/-- A read records one diagnostic at most, and only at an I/O address. -/
theorem State.memRead_diags {v : Word} (h : s.memRead addr = some (v, u)) :
    u.diags = s.diags ∨ (region addr = .io ∧ ∃ d, u.diags = d :: s.diags) := by
  unfold State.memRead at h
  split at h
  · cases h; exact .inl rfl
  · cases h; exact .inl rfl
  · next hio =>
    rcases State.ioRead_cases h with ⟨_, _, rfl⟩ | ⟨_, _, _, rfl⟩ | ⟨_, _, hserve⟩
    · exact .inl rfl
    · exact .inr ⟨hio, _, rfl⟩
    · obtain ⟨_, ch, _, _, x, _, _, _, _, hsettle⟩ := State.service_cases hserve
      have hu : u = ((s.takeAnswer ch).settle ch x).2 := by rw [hsettle]
      have htake : (s.takeAnswer ch).diags = s.diags := by rw [State.takeAnswer_frame]
      rw [hu, ← htake]
      exact (State.settle_diags ch x _).imp_right fun hd => ⟨hio, hd⟩

/-- A write to RAM records nothing. -/
theorem State.memWrite_diags_of_ram (h : region addr = .ram) (v : Word) :
    (s.memWrite addr v).diags = s.diags := by
  simp only [State.memWrite, h]

/-- The update of an address register leaves the log. -/
theorem afterAccess_diags (i : Instr) (s : State) : (afterAccess i s).diags = s.diags := by
  rw [afterAccess_frame]

/-- An instruction that records something reads an I/O address or writes outside RAM. -/
theorem exec_diags (h : exec i s = .next t) (hne : t.diags ≠ s.diags) :
    (∃ addr d, fetchAddr i s = some addr ∧ region addr = .io ∧ t.diags = d :: s.diags) ∨
      (∃ addr, storeAddr i s = some addr ∧ (region addr = .io ∨ region addr = .rom)) := by
  rcases exec_cases h with ⟨addr, hread, ⟨-, rfl⟩ | ⟨v, u, hm, rfl⟩⟩ | ⟨addr, hwrite, rfl⟩ | ⟨hread, hwrite⟩
  · exact absurd rfl hne
  · have hlog : ((afterAccess i u).dpush v).advance.diags = u.diags := afterAccess_diags i u
    rw [hlog] at hne ⊢
    obtain ⟨hio, d, hd⟩ := (State.memRead_diags hm).resolve_left hne
    exact .inl ⟨addr, d, hread, hio, hd⟩
  · refine .inr ⟨addr, hwrite, ?_⟩
    rcases region_cases addr with ⟨hram, -⟩ | ⟨hrom, -⟩ | ⟨hio, -⟩
    · exact absurd ((afterAccess_diags i _).trans (State.memWrite_diags_of_ram hram s.t)) hne
    · exact .inr hrom
    · exact .inl hio
  · exact absurd (congrArg State.diags (exec_frame_of_no_access hread hwrite h) :) hne

/-- Settles O56: the read of a fetch step (`State.memRead_diags`), or `exec_diags`. -/
theorem diagnosticsComeFromIoAndRomAccesses : Obligations.DiagnosticsComeFromIoAndRomAccesses := by
  intro s t h hne
  obtain ⟨-, ⟨hk, hhalt, hfetch⟩ | ⟨k, i, hk, hd, hexec⟩⟩ := step_cases h
  · obtain ⟨-, ⟨-, rfl⟩ | ⟨w, u, hm, rfl⟩⟩ := fetchStep_cases hfetch
    · exact absurd rfl hne
    · obtain ⟨hio, d, hd⟩ := (State.memRead_diags hm).resolve_left hne
      exact .inl ⟨s.addrP, d, by simp [State.nextRead, hk, hhalt], hio, hd⟩
  · simpa [State.nextRead, State.nextWrite, hk, hd] using exec_diags hexec hne

end Sys2Proof.Machine
end

section
/-! PROOFS. What a node holds at its launch (spec/10_state.md R47; spec/70_reset_and_hazards.md R290 to
R292). -/

namespace Sys2Proof.Machine

/-- At launch RAM lists nothing, and ROM is made from 64 words. -/
theorem launch_inv (x : Params) : (State.launch x).Inv :=
  ⟨Memory.wf_nil, Memory.ofWords_wf (by simp)⟩

/-- Settles O58: `launch_inv`; the state after reset is a launch. -/
theorem resetMemoriesAreCanonical : Obligations.ResetMemoriesAreCanonical :=
  ⟨launch_inv _, launch_inv⟩

/-- At launch a cell of ROM holds its word of the image. -/
theorem launch_rom_read (x : Params) {j : Nat} (h : j < 64) :
    (State.launch x).rom.read j = x.romImage[j] := by
  have hread := Memory.read_ofWords (ws := x.romImage.toList) (n := 0) (j := j) (by simpa using h)
  simpa using hread

/-- Settles O60: reads by region (`launch_rom_read` for ROM); the rest is the definition of the launch. -/
theorem resetLeavesZeroedRam : Obligations.ResetLeavesZeroedRam := by
  refine ⟨fun x => ⟨fun addr hram => ?_, fun addr hrom => ?_, rfl, rfl, rfl, State.launch_present x, rfl⟩,
    rfl⟩
  · rw [State.memRead_of_ram hram]; rfl
  · rw [State.memRead_of_rom hrom, cell_eq_mod, launch_rom_read]

end Sys2Proof.Machine
end

section
/-! PROOFS. The control transfers (spec/40_control.md R178 to R187). -/

namespace Sys2Proof.Machine

/-- Settles O18: a destination of any width, zero-extended, keeps its number. -/
theorem destinationsAreZeroExtended : Obligations.DestinationsAreZeroExtended := by
  refine ⟨fun _ => rfl, fun d => ?_, fun d => ?_⟩
  · exact BitVec.toNat_setWidth_of_le (by decide)
  · exact BitVec.toNat_setWidth_of_le (by decide)

/-- Settles O19: the definitions; a word of `p`'s number is `p` zero-extended. -/
theorem jumpAndCallLoadP : Obligations.JumpAndCallLoadP := by
  intro s d
  rw [BitVec.ofNat_toNat]
  exact ⟨rfl, rfl⟩

/-- Settles O20: the definitions; ten bits of `r`'s number are `r` cut to ten bits. -/
theorem returnAndExecute : Obligations.ReturnAndExecute := by
  intro s
  rw [BitVec.ofNat_toNat, BitVec.ofNat_toNat]
  exact ⟨rfl, rfl⟩

/-- Counting a word down that is not zero. -/
theorem ofNat_toNat_sub_one {r : Word} (h : r ≠ 0) : BitVec.ofNat 18 (r.toNat - 1) = r - 1 := by
  bv_omega

/-- Settles O21: each instruction takes the branch its count says. -/
theorem countedLoops : Obligations.CountedLoops := by
  intro s d
  refine ⟨fun hr => ⟨if_pos hr, if_pos hr⟩, fun hr => ?_⟩
  rw [ofNat_toNat_sub_one hr]
  exact ⟨if_neg hr, if_neg hr⟩

/-- The sign of a word is its bit 17 (R8). -/
theorem signed_nonneg_iff (v : Word) : 0 ≤ signed v ↔ v.getLsbD 17 = false := by
  rw [signed, BitVec.toInt_pos_iff, ← BitVec.msb_eq_false_iff_two_mul_lt, BitVec.msb_eq_getLsbD_last]

/-- Settles O22: the definition of `if`, and of `-if` with the sign read from bit 17. -/
theorem conditionalTransfers : Obligations.ConditionalTransfers := by
  intro s d
  refine ⟨rfl, ?_⟩
  simp only [← signed_nonneg_iff]
  rfl

end Sys2Proof.Machine
end

section
/-! PROOFS. The stack and register moves, and the circular stacks seen from the top (spec/10_state.md R34;
spec/42_stack_register.md; spec/41_alu.md R205, R206). -/

namespace Sys2Proof.Machine

variable (s : State)

/-- Settles O24: the definitions. -/
theorem logicResults : Obligations.LogicResults := fun _ => ⟨rfl, rfl⟩

/-- Settles O34: the definitions. -/
theorem stackMoves : Obligations.StackMoves := fun _ => ⟨rfl, rfl, rfl, rfl⟩

/-- Settles O35: the definitions. -/
theorem movesBetweenTheStacks : Obligations.MovesBetweenTheStacks := fun _ => ⟨rfl, rfl⟩

/-- Settles O36: the definitions; nine bits of `t`'s number are `t` cut to nine bits. -/
theorem registerMoves : Obligations.RegisterMoves := by
  intro s
  rw [BitVec.ofNat_toNat]
  exact ⟨rfl, rfl, rfl⟩

/-! ## The data stack from the top -/

/-- What the data stack holds at a depth: `t`, `s`, then the cells below the pointer, round and round. -/
def State.dataAt (s : State) : Nat → Word
  | 0 => s.t
  | 1 => s.s
  | j + 2 => s.ds.get (s.sp - 1 - BitVec.ofNat 3 j)

/-- What the return stack holds at a depth: `r`, then the cells below the pointer, round and round. -/
def State.returnAt (s : State) : Nat → Word
  | 0 => s.r
  | j + 1 => s.rs.get (s.rp - 1 - BitVec.ofNat 3 j)

/-- A pointer one further down (R29). -/
theorem pointer_sub_succ (p : BitVec 3) (j : Nat) :
    p - 1 - BitVec.ofNat 3 j = p - BitVec.ofNat 3 (j + 1) := by
  rw [BitVec.ofNat_add, sub_sub, add_comm]; rfl

/-- A pointer moved by one to seven places names another cell. -/
theorem pointer_ne_sub (p : BitVec 3) {j : Nat} (h : j < 7) : p ≠ p - 1 - BitVec.ofNat 3 j := by
  bv_omega

/-- A pop brings every depth one up. -/
theorem State.dataAt_dpop (j : Nat) : s.dpop.dataAt j = s.dataAt (j + 1) := by
  match j with
  | 0 => rfl
  | 1 => simp [State.dataAt]
  | j + 2 => simp only [State.dataAt, State.dpop_ds, State.dpop_sp, pointer_sub_succ]

theorem State.returnAt_rpop (j : Nat) : s.rpop.returnAt j = s.returnAt (j + 1) := by
  match j with
  | 0 => simp [State.returnAt]
  | j + 1 => simp only [State.returnAt, State.rpop_rs, State.rpop_rp, pointer_sub_succ]

/-- A push brings the first nine depths one down. -/
theorem State.dataAt_dpush (v : Word) {j : Nat} (h : j < 9) : (s.dpush v).dataAt (j + 1) = s.dataAt j := by
  match j with
  | 0 => rfl
  | 1 => simp [State.dataAt]
  | j + 2 =>
    have hne := pointer_ne_sub s.sp (j := j) (by omega)
    simp only [State.dataAt, State.dpush_ds, State.dpush_sp, BitVec.add_sub_cancel, ← pointer_sub_succ,
      Cells.get_set_of_ne _ _ hne]

/-- A push brings the first eight depths of the return stack one down. -/
theorem State.returnAt_rpush (v : Word) {j : Nat} (h : j < 8) :
    (s.rpush v).returnAt (j + 1) = s.returnAt j := by
  match j with
  | 0 => simp [State.returnAt]
  | j + 1 =>
    have hne := pointer_ne_sub s.rp (j := j) (by omega)
    simp only [State.returnAt, State.rpush_rs, State.rpush_rp, BitVec.add_sub_cancel, ← pointer_sub_succ,
      Cells.get_set_of_ne _ _ hne]

/-! ## Many pops and pushes -/

/-- Popping gives the depths in order. -/
theorem State.dpopMany_eq (n : Nat) : s.dpopMany n = (List.range n).map s.dataAt := by
  induction n generalizing s with
  | zero => rfl
  | succ n ih =>
    have hpop : s.dpop.dataAt = s.dataAt ∘ Nat.succ := funext s.dataAt_dpop
    rw [State.dpopMany, ih, hpop, List.range_succ_eq_map, List.map_cons, List.map_map]
    rfl

theorem State.rpopMany_eq (n : Nat) : s.rpopMany n = (List.range n).map s.returnAt := by
  induction n generalizing s with
  | zero => rfl
  | succ n ih =>
    have hpop : s.rpop.returnAt = s.returnAt ∘ Nat.succ := funext s.returnAt_rpop
    rw [State.rpopMany, ih, hpop, List.range_succ_eq_map, List.map_cons, List.map_map]
    rfl

/-- The first ten depths hold the values pushed last. -/
theorem State.dataAt_dpushAll (vs : List Word) {j : Nat} (h : j < 10) (hj : j < vs.length) :
    vs.reverse[j]? = some ((s.dpushAll vs).dataAt j) := by
  induction vs using List.reverseRecOn generalizing j with
  | nil => cases hj
  | append_singleton vs v ih =>
    rw [State.dpushAll, List.foldl_concat, List.reverse_concat]
    cases j with
    | zero => rfl
    | succ j =>
      rw [State.dataAt_dpush _ _ (by omega), List.getElem?_cons_succ]
      exact ih (by omega) (by simpa using hj)

/-- The first nine depths of the return stack hold the values pushed last. -/
theorem State.returnAt_rpushAll (vs : List Word) {j : Nat} (h : j < 9) (hj : j < vs.length) :
    vs.reverse[j]? = some ((s.rpushAll vs).returnAt j) := by
  induction vs using List.reverseRecOn generalizing j with
  | nil => cases hj
  | append_singleton vs v ih =>
    rw [State.rpushAll, List.foldl_concat, List.reverse_concat]
    cases j with
    | zero => rfl
    | succ j =>
      rw [State.returnAt_rpush _ _ (by omega), List.getElem?_cons_succ]
      exact ih (by omega) (by simpa using hj)

/-- A list begins with the values of a function that it holds place by place. -/
theorem map_range_eq_take {f : Nat → Word} {l : List Word} {n : Nat}
    (h : ∀ j, j < n → l[j]? = some (f j)) : (List.range n).map f = l.take n := by
  refine List.ext_getElem? fun j => ?_
  by_cases hj : j < n
  · simp [hj, h j hj]
  · simp [hj]

/-- Settles O31: pops give the depths (`State.dpopMany_eq`), and those hold the values pushed last. -/
theorem stacksKeepTenAndNineValues : Obligations.StacksKeepTenAndNineValues := by
  intro s vs n hn
  refine ⟨fun h10 => ?_, fun h9 => ?_⟩
  · rw [State.dpopMany_eq]
    exact map_range_eq_take fun j hj => s.dataAt_dpushAll vs (by omega) (by omega)
  · rw [State.rpopMany_eq]
    exact map_range_eq_take fun j hj => s.returnAt_rpushAll vs (by omega) (by omega)

/-- From the third depth on the cells come round again after eight. -/
theorem State.dataAt_add_eight {m : Nat} (h : 2 ≤ m) : s.dataAt (m + 8) = s.dataAt m := by
  obtain ⟨j, rfl⟩ := Nat.exists_eq_add_of_le' h
  have hround : BitVec.ofNat 3 (j + 8) = BitVec.ofNat 3 j := by bv_omega
  rw [show j + 2 + 8 = j + 8 + 2 by omega, State.dataAt, hround, State.dataAt]

/-- Settles O32: pops give the depths, which repeat (`State.dataAt_add_eight`). -/
theorem popsRepeatWithPeriodEight : Obligations.PopsRepeatWithPeriodEight := by
  intro s m n hm hn
  simp [State.dpopMany_eq, State.dataAt_add_eight s hm, show m < n by omega, hn]

end Sys2Proof.Machine
end

section
/-! PROOFS. The auto-increment in its bank of 128 addresses (spec/20_memory.md R67). -/

namespace Sys2Proof.Machine

/-- The bits above the bank of an address, as a number. -/
theorem toNat_and_not_0x7F {n : Nat} (x : BitVec (n + 7)) :
    (x &&& ~~~BitVec.ofNat (n + 7) 0x7F).toNat = x.toNat / 128 * 128 := by
  have hmask : x &&& ~~~BitVec.ofNat (n + 7) 0x7F = x >>> 7 <<< 7 := by
    refine BitVec.eq_of_getLsbD_eq fun j hj => ?_
    have hbit : (0x7F : Nat).testBit j = decide (j < 7) := Nat.testBit_two_pow_sub_one 7 j
    simp only [BitVec.getLsbD_and, BitVec.getLsbD_not, BitVec.getLsbD_ofNat, hbit,
      BitVec.getLsbD_shiftLeft, BitVec.getLsbD_ushiftRight, hj]
    by_cases h : j < 7
    · simp [h]
    · simp [h, show 7 + (j - 7) = j by omega]
  have hlt : x.toNat / 128 * 128 < 2 ^ (n + 7) := by have := x.isLt; omega
  rw [hmask, BitVec.toNat_shiftLeft, BitVec.toNat_ushiftRight, Nat.shiftLeft_eq, Nat.shiftRight_eq_div_pow]
  exact Nat.mod_eq_of_lt hlt

/-- The low seven bits of an address, as a number. -/
theorem toNat_and_0x7F {n : Nat} (x : BitVec (n + 7)) :
    (x &&& BitVec.ofNat (n + 7) 0x7F).toNat = x.toNat % 128 := by
  have hlt : 0x7F < 2 ^ (n + 7) := by
    rw [Nat.pow_add]
    have := Nat.two_pow_pos n
    omega
  rw [BitVec.toNat_and, BitVec.toNat_ofNat, Nat.mod_eq_of_lt hlt]
  exact Nat.and_two_pow_sub_one_eq_mod x.toNat 7

/-- The successor of an address, within its bank. -/
theorem toNat_succ_mod_128 {n : Nat} (x : BitVec (n + 7)) :
    (x + 1).toNat % 128 = (x.toNat % 128 + 1) % 128 := by
  have hone : (1 : BitVec (n + 7)).toNat = 1 :=
    Nat.mod_eq_of_lt (Nat.one_lt_two_pow (by omega))
  have hdvd : 128 ∣ 2 ^ (n + 7) := Dvd.intro_left (2 ^ n) (Nat.pow_add 2 n 7).symm
  rw [BitVec.toNat_add, hone, Nat.mod_mod_of_dvd _ hdvd]
  omega

/-- The increment of an address below the I/O range adds 1 modulo 128 to its low seven bits. -/
theorem toNat_inc7 {n : Nat} (x : BitVec (n + 7)) : (inc7 x).toNat =
    if x.getLsbD 8 then x.toNat else x.toNat / 128 * 128 + (x.toNat % 128 + 1) % 128 := by
  unfold inc7
  split
  · rfl
  · have hlow : (x.toNat % 128 + 1) % 128 < 2 ^ 7 := Nat.mod_lt _ (by decide)
    rw [BitVec.toNat_or, toNat_and_not_0x7F, toNat_and_0x7F, toNat_succ_mod_128, mul_comm]
    exact (Nat.two_pow_add_eq_or_of_lt hlow _).symm

/-- Settles O40: `toNat_inc7` for the 10 bits of `p` and the 18 of `a`. -/
theorem incrementStaysInItsBank : Obligations.IncrementStaysInItsBank :=
  ⟨toNat_inc7 (n := 3), toNat_inc7 (n := 11)⟩

end Sys2Proof.Machine
end

section
/-! PROOFS. The unary operations and the sums as arithmetic (spec/41_alu.md R200 to R204, R207, R208). -/

namespace Sys2Proof.Machine

variable (s : State)

/-! ## Unary operations -/

/-- `2*` doubles (R201). -/
theorem shiftLeft_one_eq_double (v : Word) : v <<< 1 = BitVec.ofNat 18 (2 * v.toNat) := by
  refine BitVec.eq_of_toNat_eq ?_
  rw [BitVec.toNat_shiftLeft, BitVec.toNat_ofNat, Nat.shiftLeft_eq, mul_comm]

/-- Shifting right with the sign bit kept is the arithmetic shift. -/
theorem shiftRight_or_sign (v : Word) : (v >>> 1) ||| (v &&& signBit) = v.sshiftRight 1 := by
  refine BitVec.eq_of_getLsbD_eq fun j hj => ?_
  have hsign : signBit.getLsbD j = decide (j = 17) :=
    (by decide : ∀ j < 18, signBit.getLsbD j = decide (j = 17)) j hj
  rw [BitVec.getLsbD_or, BitVec.getLsbD_and, hsign, BitVec.getLsbD_ushiftRight, BitVec.getLsbD_sshiftRight,
    BitVec.msb_eq_getLsbD_last]
  by_cases h : j = 17
  · simp [h]
  · simp [h, hj, show 1 + j < 18 by omega]

/-- `2/` halves the signed value, rounding down (R202). -/
theorem shiftRight_or_sign_eq_half (v : Word) :
    (v >>> 1) ||| (v &&& signBit) = BitVec.ofInt 18 (signed v / 2) := by
  rw [shiftRight_or_sign, BitVec.sshiftRight, Int.shiftRight_eq_div_pow]
  rfl

/-- `-` takes from all ones (R203). -/
theorem not_eq_sub (v : Word) : ~~~v = 0x3FFFF#18 - v :=
  (BitVec.allOnes_sub_eq_not v).symm

/-- Settles O23: `shiftLeft_one_eq_double`, `shiftRight_or_sign_eq_half` and `not_eq_sub`, in the one shape
`State.unary`. -/
theorem unaryResults : Obligations.UnaryResults := by
  intro s
  rw [← shiftLeft_one_eq_double, ← shiftRight_or_sign_eq_half, ← not_eq_sub]
  exact ⟨rfl, rfl, rfl⟩

/-! ## Sums -/

theorem signed_lt (v : Word) : signed v < 2 ^ 17 := BitVec.toInt_lt

theorem le_signed (v : Word) : -2 ^ 17 ≤ signed v := BitVec.le_toInt v

/-- The carry that enters a sum is 0 or 1. -/
theorem carryIn_cases : s.carryIn = 0 ∨ s.carryIn = 1 := by
  unfold State.carryIn
  split
  · exact .inr rfl
  · exact .inl rfl

/-- The exact sum fits in 19 bits. -/
theorem exactSum_bounds : -2 ^ 18 ≤ s.exactSum ∧ s.exactSum < 2 ^ 18 := by
  have h1 := signed_lt s.t
  have h2 := signed_lt s.s
  have h3 := le_signed s.t
  have h4 := le_signed s.s
  rw [State.exactSum]
  rcases carryIn_cases s with hc | hc <;> omega

/-- Bit 18 of a number of 19 bits is its sign (D24, log 26). -/
theorem bit18_eq_neg {x : Int} (hlo : -2 ^ 18 ≤ x) (hhi : x < 2 ^ 18) : bit18 x = decide (x < 0) := by
  rw [bit18, decide_eq_decide]
  omega

/-- The exact sum reduced to a word is the sum of the words (R207). -/
theorem wrap_exactSum : wrap s.exactSum = s.t + s.s + if s.p9 && s.c then 1#18 else 0#18 := by
  have hcarry : BitVec.ofInt 18 s.carryIn = if s.p9 && s.c then 1#18 else 0#18 := by
    simp only [State.carryIn, Bool.and_eq_true, apply_ite (BitVec.ofInt 18)]
    rfl
  rw [wrap, State.exactSum, BitVec.ofInt_add, BitVec.ofInt_add, hcarry]
  simp only [signed, BitVec.ofInt_toInt]

/-- The carry after the exact sum, while P9 is set, is its sign. -/
theorem carryAfter_exactSum : s.carryAfter s.exactSum = if s.p9 then decide (s.exactSum < 0) else s.c := by
  obtain ⟨hlo, hhi⟩ := exactSum_bounds s
  rw [State.carryAfter, bit18_eq_neg hlo hhi]

/-- The exact sum while P9 is set. -/
theorem exactSum_of_p9 {s : State} (h : s.p9 = true) :
    s.exactSum = signed s.t + signed s.s + if s.c then 1 else 0 := by
  simp only [State.exactSum, State.carryIn, h, true_and]

/-- Settles O25: `wrap_exactSum` and `carryAfter_exactSum`. -/
theorem addResult : Obligations.AddResult := by
  intro s
  have hcarry : s.carryAfter s.exactSum = if s.p9 then
      decide (signed s.t + signed s.s + (if s.c then 1 else 0) < 0) else s.c := by
    rw [carryAfter_exactSum]
    split
    · next h => rw [exactSum_of_p9 h]
    · rfl
  rw [← wrap_exactSum, ← hcarry]
  rfl

/-- The signed value of a word, by its unsigned value. -/
theorem signed_eq_toNat_sub (v : Word) :
    signed v = v.toNat - if 2 ^ 17 ≤ v.toNat then 2 ^ 18 else 0 := by
  rw [signed, BitVec.toInt_eq_toNat_cond]
  split <;> split <;> omega

/-- The sign of a sum of two signed words and a carry, by their unsigned values. -/
theorem signed_sum_neg (x y : Word) (c : Bool) :
    decide (signed x + signed y + (if c then 1 else 0) < 0) =
      (decide (2 ^ 18 ≤ x.toNat + y.toNat + c.toNat) ^^ x.getLsbD 17 ^^ y.getLsbD 17) := by
  have hx := x.isLt
  have hy := y.isLt
  have hc1 : c.toNat ≤ 1 := Bool.toNat_le c
  have hc : (if c then 1 else 0 : Int) = c.toNat := by cases c <;> rfl
  have hxs : x.getLsbD 17 = decide (2 ^ 17 ≤ x.toNat) := BitVec.getLsbD_last x
  have hys : y.getLsbD 17 = decide (2 ^ 17 ≤ y.toNat) := BitVec.getLsbD_last y
  rw [hxs, hys, hc, signed_eq_toNat_sub, signed_eq_toNat_sub]
  by_cases h1 : 2 ^ 17 ≤ x.toNat <;> by_cases h2 : 2 ^ 17 ≤ y.toNat <;>
    simp only [h1, h2, if_true, if_false, decide_true, decide_false, Bool.xor_true, Bool.xor_false,
      ← decide_not, decide_eq_decide] <;>
    omega

/-- Settles O26: the carry is the sign of the exact sum (`addResult`), and `signed_sum_neg`. -/
theorem carryAgainstTheUnsignedCarry : Obligations.CarryAgainstTheUnsignedCarry := by
  intro s t hp h
  rw [addResult s] at h
  cases h
  simp only [hp, if_true]
  exact signed_sum_neg s.t s.s s.c

/-! ## The multiply step -/

/-- A bit entering at the top of a word shifted right (R200). -/
theorem shiftRight_or_top (v : Word) (T : Int) :
    (v >>> 1) ||| (wrap (T % 2) <<< 17) = BitVec.ofNat 18 (v.toNat / 2 + 2 ^ 17 * (T % 2).toNat) := by
  have hbit : (T % 2).toNat ≤ 1 := by omega
  have hwrap : wrap (T % 2) = BitVec.ofNat 18 (T % 2).toNat := by
    rw [← BitVec.ofInt_natCast, Int.toNat_of_nonneg (by omega)]
    rfl
  have hlow : v.toNat / 2 < 2 ^ 17 := by have := v.isLt; omega
  rw [hwrap]
  refine BitVec.eq_of_toNat_eq ?_
  rw [BitVec.toNat_or, BitVec.toNat_ushiftRight, BitVec.toNat_shiftLeft, BitVec.toNat_ofNat,
    BitVec.toNat_ofNat, Nat.shiftLeft_eq, Nat.shiftRight_eq_div_pow, Nat.or_comm, Nat.mod_eq_of_lt (by omega),
    Nat.mod_eq_of_lt (by omega), Nat.mod_eq_of_lt (by omega), mul_comm, pow_one, add_comm]
  exact (Nat.two_pow_add_eq_or_of_lt hlow _).symm

/-- The carry after `+*`: the sign of the sum, where one was made with P9 set. -/
theorem mulCarry_eq : (if s.a.getLsbD 0 then s.carryAfter s.mulSum else s.c) =
    if s.a.getLsbD 0 && s.p9 then decide (s.mulSum < 0) else s.c := by
  cases ha : s.a.getLsbD 0 with
  | false => rfl
  | true =>
    have hsum : s.mulSum = s.exactSum := by rw [State.mulSum, if_pos ha]
    rw [hsum, carryAfter_exactSum]
    rfl

/-- `+*`, by the sum that it shifts (R200). -/
theorem exec_mulStep : exec .mulStep s = .next { s with
    t := BitVec.ofInt 18 (s.mulSum / 2)
    a := BitVec.ofNat 18 (s.a.toNat / 2 + 2 ^ 17 * (s.mulSum % 2).toNat)
    c := if s.a.getLsbD 0 && s.p9 then decide (s.mulSum < 0) else s.c
    k := s.k.next } := by
  rw [← mulCarry_eq, ← shiftRight_or_top]
  rfl

/-- Settles O27: `exec_mulStep`. -/
theorem mulStepResult : Obligations.MulStepResult := by
  intro s
  have hsum : s.mulSum = if s.a.getLsbD 0 then
      signed s.t + signed s.s + (if s.p9 && s.c then 1 else 0) else signed s.t := by
    simp only [State.mulSum, State.exactSum, State.carryIn, Bool.and_eq_true]
  rw [← hsum]
  exact exec_mulStep s

end Sys2Proof.Machine
end

section
/-! PROOFS. Eighteen multiply steps multiply: each step halves `t:a`, taken as one number, after adding the
multiplicand on top where the lowest bit says so (spec/41_alu.md R200). -/

namespace Sys2Proof.Machine

variable {s : State}

/-- `t` and `a` as one number of 36 bits, `t` signed. -/
def State.product (s : State) : Int := signed s.t * 2 ^ 18 + s.a.toNat

/-- What `+*` changes, beside the carry: `t`, `a` and the slot. -/
def State.SameButProduct (s u : State) : Prop := { u with t := s.t, a := s.a, k := s.k } = s

theorem State.SameButProduct.trans {u v : State} (h : s.SameButProduct u) (h' : u.SameButProduct v) :
    s.SameButProduct v := by
  have hv : { v with t := s.t, a := s.a, k := s.k } =
      { ({ v with t := u.t, a := u.a, k := u.k } : State) with t := s.t, a := s.a, k := s.k } := rfl
  rw [State.SameButProduct, hv, h']
  exact h

/-- The sum that `+*` shifts, while P9 is clear. -/
theorem mulSum_of_not_p9 (h : s.p9 = false) : s.mulSum = signed s.t + s.a.toNat % 2 * signed s.s := by
  have hbit : s.a.getLsbD 0 = decide (s.a.toNat % 2 = 1) := Nat.testBit_zero _
  rw [State.mulSum, State.exactSum, carryIn_of_not_p9 h, hbit]
  rcases Nat.mod_two_eq_zero_or_one s.a.toNat with ha | ha
  · simp [ha, show (s.a.toNat : Int) % 2 = 0 by omega]
  · simp [ha, show (s.a.toNat : Int) % 2 = 1 by omega]

/-- The sum that `+*` shifts fits in 19 bits, so that its half is a word. -/
theorem mulSum_bounds (s : State) : -2 ^ 18 ≤ s.mulSum ∧ s.mulSum < 2 ^ 18 := by
  unfold State.mulSum
  split
  · exact exactSum_bounds s
  · have := signed_lt s.t
    have := le_signed s.t
    omega

/-- One `+*` while P9 is clear. -/
theorem exec_mulStep_product (h : s.p9 = false) : ∃ u, exec .mulStep s = .next u ∧ s.SameButProduct u ∧
    2 * u.product = s.product - s.product % 2 + signed s.s * 2 ^ 18 * (s.product % 2) := by
  refine ⟨_, exec_mulStep s, ?_, ?_⟩
  · simp only [State.SameButProduct, h, Bool.and_false]
    rfl
  · obtain ⟨hlo, hhi⟩ := mulSum_bounds s
    have ht : signed (BitVec.ofInt 18 (s.mulSum / 2)) = s.mulSum / 2 :=
      BitVec.toInt_ofInt_eq_self (by decide) (by omega) (by omega)
    have ha : (BitVec.ofNat 18 (s.a.toNat / 2 + 2 ^ 17 * (s.mulSum % 2).toNat)).toNat =
        s.a.toNat / 2 + 2 ^ 17 * (s.mulSum % 2).toNat := by
      have := s.a.isLt
      exact Nat.mod_eq_of_lt (by omega)
    have hlow : s.product % 2 = s.a.toNat % 2 := by rw [State.product]; omega
    have hsum := mulSum_of_not_p9 h
    rw [hlow, State.product, State.product, ht, ha]
    have hwhole : 2 * (s.mulSum / 2 * 2 ^ 18 +
        ((s.a.toNat / 2 + 2 ^ 17 * (s.mulSum % 2).toNat : Nat) : Int)) =
        2 ^ 18 * s.mulSum + (s.a.toNat - s.a.toNat % 2) := by omega
    rw [hwhole, hsum]
    ring

/-- Bits of a number above its lowest. -/
theorem emod_two_pow_succ (x : Int) (n : Nat) : x % 2 ^ (n + 1) = x % 2 + 2 * (x / 2 % 2 ^ n) := by
  have hdiv : x / 2 / 2 ^ n = x / (2 * 2 ^ n) := Int.ediv_ediv_of_nonneg (by decide)
  have h2 := Int.mul_ediv_add_emod x 2
  rw [pow_succ', Int.emod_def, Int.emod_def (x / 2), hdiv]
  linear_combination -h2

/-- Up to eighteen `+*` while P9 is clear: as many low bits of `t:a` have become addends on top. -/
theorem execTimes_mulStep_product {n : Nat} (hn : n ≤ 18) (h : s.p9 = false) :
    ∃ u, execTimes n .mulStep s = .next u ∧ s.SameButProduct u ∧
      2 ^ n * u.product =
        s.product - s.product % 2 ^ n + signed s.s * 2 ^ 18 * (s.product % 2 ^ n) := by
  induction n generalizing s with
  | zero => exact ⟨s, rfl, rfl, by simp⟩
  | succ n ih =>
    obtain ⟨u, hexec, hsame, hstep⟩ := exec_mulStep_product h
    have hp : u.p9 = false := by rw [← h, ← hsame]; rfl
    have hs : u.s = s.s := by rw [← hsame]
    obtain ⟨v, hrun, hsame', hrest⟩ := ih (by omega) hp
    refine ⟨v, by rw [execTimes, hexec]; exact hrun, hsame.trans hsame', ?_⟩
    have hlow : u.product % 2 ^ n = s.product / 2 % 2 ^ n := by
      have hu : u.product = s.product / 2 + 2 ^ n * (2 ^ (17 - n) * signed s.s * (s.product % 2)) := by
        have hpow : (2 : Int) ^ n * 2 ^ (17 - n) = 2 ^ 17 := by rw [← pow_add]; congr 1; omega
        rw [← mul_assoc, ← mul_assoc, hpow]
        linarith [Int.mul_ediv_add_emod s.product 2]
      rw [hu, Int.add_mul_emod_self_left]
    rw [hs, hlow] at hrest
    rw [emod_two_pow_succ, pow_succ']
    linear_combination 2 * hrest + hstep

/-- Settles O28: after eighteen steps all of `a` has become addends (`execTimes_mulStep_product`). -/
theorem eighteenMulStepsMultiply : Obligations.EighteenMulStepsMultiply := by
  intro s hp ht
  obtain ⟨u, hrun, hsame, hproduct⟩ := execTimes_mulStep_product (n := 18) le_rfl hp
  refine ⟨u, hrun, ?_, hsame⟩
  have hstart : s.product = s.a.toNat := by rw [State.product, ht]; simp [signed]
  have hlow : (s.a.toNat : Int) % 2 ^ 18 = s.a.toNat := by have := s.a.isLt; omega
  rw [hstart, hlow] at hproduct
  rw [State.product] at hproduct
  linarith

end Sys2Proof.Machine
end

section
/-! PROOFS. The memory instructions: what a fetch pushes, what a store leaves, and the two addresses of a RAM
cell (spec/20_memory.md R62 to R64; spec/43_memory_access.md R240 to R249). -/

namespace Sys2Proof.Machine

variable {s u : State} {i : Instr} {addr : Addr}

/-! ## Fetches -/

/-- A fetch whose read completes pushes what was read over the state the read leaves. -/
theorem exec_fetch_of_read {v : Word} (hread : fetchAddr i s = some addr)
    (hm : s.memRead addr = some (v, u)) :
    exec i s = .next { afterAccess i u with
      t := v, s := s.t, ds := s.ds.set s.sp s.s, sp := s.sp + 1, k := s.k.next } := by
  rw [exec_of_fetchAddr hread, State.fetchVia_of_read hm, afterAccess_frame, State.memRead_frame hm]
  rfl

/-- Settles O41: `exec_fetch_of_read` for a read of RAM or ROM, which leaves the state. -/
theorem fetchesPushTheWordAtTheirAddress : Obligations.FetchesPushTheWordAtTheirAddress :=
  fun _ _ _ hread => ⟨fun hram => exec_fetch_of_read hread (State.memRead_of_ram hram),
    fun hrom => exec_fetch_of_read hread (State.memRead_of_rom hrom)⟩

/-- Settles O42: `exec_fetch_of_read`; a read that is blocked leaves the state. -/
theorem fetchesPushOrWait : Obligations.FetchesPushOrWait := by
  intro i s addr hread
  refine ⟨fun v u hm => exec_fetch_of_read hread hm, fun hwait => ?_⟩
  rw [exec_of_fetchAddr hread, State.fetchVia_of_blocked (State.memRead_eq_none.mpr hwait)]

/-! ## Stores -/

/-- The update of an address register does not see what a write changes. -/
theorem afterAccess_update (i : Instr) (s : State) (m : Memory) (e : Env) (d : List Diag) :
    afterAccess i { s with ram := m, env := e, diags := d } =
      { afterAccess i s with ram := m, env := e, diags := d } := by
  cases i <;> rfl

/-- A store writes `t`, updates its address register and pops. -/
theorem exec_store (hwrite : storeAddr i s = some addr) :
    exec i s = .next { afterAccess i s with
      t := s.s, s := s.ds.get (s.sp - 1), sp := s.sp - 1, k := s.k.next,
      ram := (s.memWrite addr s.t).ram, env := (s.memWrite addr s.t).env,
      diags := (s.memWrite addr s.t).diags } := by
  obtain ⟨m, e, d, hw⟩ := State.memWrite_frame addr s.t s
  rw [exec_of_storeAddr hwrite, State.storeVia, hw, afterAccess_update, afterAccess_frame]
  rfl

/-- Settles O43: `exec_store`, where a write to RAM changes one cell (`Memory.read_write`). -/
theorem storesToRam : Obligations.StoresToRam := by
  intro i s addr hinv hwrite hram
  refine ⟨_, exec_store hwrite, ?_, fun n => ?_⟩
  · rw [State.memWrite, hram, afterAccess_frame]
  · simp only [State.memWrite, hram, Memory.read_write hinv.1, eq_comm]

/-- Settles O44: `exec_store`, where a write outside RAM leaves RAM alone. -/
theorem storesOutsideRam : Obligations.StoresOutsideRam := by
  intro i s addr hwrite
  rw [exec_store hwrite]
  refine ⟨fun hrom => ?_, fun hio => ?_⟩
  · rw [State.memWrite, hrom, afterAccess_frame]
    rfl
  · obtain ⟨e, d, hw⟩ := State.ioWrite_frame addr s.t s
    rw [State.memWrite, hio, afterAccess_frame, hw]

/-! ## The two addresses of a cell -/

/-- A RAM address and the one 0x40 away are both in RAM and name the same cell (R64). -/
theorem mirror_of_ram (h : region addr = .ram) :
    region (addr ^^^ 0x40#9) = .ram ∧ cell (addr ^^^ 0x40#9) = cell addr := by
  constructor
  · rw [← h]
    simp [region]
  · simp [cell, BitVec.extractLsb'_xor]

/-- Settles O39: a read of RAM is one of a cell, and the write changed one cell (`Memory.read_write`). -/
theorem storesAreReadBackThroughBothAliases : Obligations.StoresAreReadBackThroughBothAliases := by
  intro s x v hinv hram u
  obtain ⟨hmirror, hcell⟩ := mirror_of_ram hram
  have hread (n : Nat) : u.ram.read n = if cell x = n then v else s.ram.read n := by
    simp only [u, State.memWrite_ram, if_pos hram, Memory.read_write hinv.1]
  refine ⟨?_, ?_, fun y hy hne => ?_⟩
  · rw [State.memRead_of_ram hram, hread, if_pos rfl]
  · rw [State.memRead_of_ram hmirror, hread, hcell, if_pos rfl]
  · rw [State.memRead_of_ram hy, hread, cell_eq_mod, cell_eq_mod, if_neg hne.symm]

end Sys2Proof.Machine
end

section
/-! PROOFS. What an I/O address selects: the fixed registers, and the neighbours of a port address
(spec/20_memory.md R72 to R78). -/

namespace Sys2Proof.Machine

variable {s : State} {cfg : Config} {addr : Addr}

/-! ## The fixed addresses -/

/-- R72, as an admitted configuration has it. -/
theorem Config.addrs_of_ok (h : cfg.ok = true) : cfg.fixedAddrs.Nodup ∧
    ∀ x ∈ cfg.fixedAddrs, x.extractLsb' 0 4 ≠ cfg.portPattern := by
  obtain ⟨⟨⟨haddrs, -⟩, -⟩, -⟩ : ((cfg.addrsOk ∧ cfg.statusOk) ∧ cfg.bijectionOk) ∧ cfg.slot4Ok := by
    simpa only [Config.ok, Bool.and_eq_true] using h
  simp only [Config.addrsOk, Bool.and_eq_true, decide_eq_true_eq, List.all_eq_true, bne_iff_ne] at haddrs
  exact ⟨haddrs.1, fun x hx => (haddrs.2 x hx).2⟩

/-- The six fixed addresses differ, whichever way round they are compared (R72). -/
theorem Config.fixedAddrs_nodup (h : cfg.ok = true) :
    cfg.fixedAddrs.Nodup ∧ cfg.fixedAddrs.reverse.Nodup :=
  ⟨(Config.addrs_of_ok h).1, List.nodup_reverse.mpr (Config.addrs_of_ok h).1⟩

theorem State.select_addrStdin (s : State) (x : Xfer) :
    s.select s.cfg.addrStdin x = if x = .read then s.hostChan .stdin else [] := by
  rw [State.select, if_pos rfl]

theorem State.select_addrStdout (h : s.cfg.ok = true) (x : Xfer) :
    s.select s.cfg.addrStdout x = if x = .write then s.hostChan .stdout else [] := by
  have hne := Config.fixedAddrs_nodup h
  simp_all [Config.fixedAddrs, State.select]

theorem State.select_addrStdio (h : s.cfg.ok = true) (x : Xfer) :
    s.select s.cfg.addrStdio x = if x = .read then s.hostChan .stdin else s.hostChan .stdout := by
  have hne := Config.fixedAddrs_nodup h
  simp_all [Config.fixedAddrs, State.select]

theorem State.select_addrTty (h : s.cfg.ok = true) (x : Xfer) :
    s.select s.cfg.addrTty x = s.hostChan .tty := by
  have hne := Config.fixedAddrs_nodup h
  simp_all [Config.fixedAddrs, State.select]

theorem State.select_addrIo (h : s.cfg.ok = true) (x : Xfer) : s.select s.cfg.addrIo x = [] := by
  have hne := Config.fixedAddrs_nodup h
  simp_all [Config.fixedAddrs, State.select]

theorem State.select_addrData (h : s.cfg.ok = true) (x : Xfer) : s.select s.cfg.addrData x = [] := by
  have hne := Config.fixedAddrs_nodup h
  simp_all [Config.fixedAddrs, State.select]

/-- Every other address is one of the port selector's. -/
theorem State.select_of_not_fixed (h : addr ∉ s.cfg.fixedAddrs) (x : Xfer) :
    s.select addr x = s.selectPort addr x := by
  simp_all [State.select, Config.fixedAddrs]

/-- No fixed address is a port address (R72). -/
theorem State.select_of_pattern (hok : s.cfg.ok = true) (h : addr.extractLsb' 0 4 = s.cfg.portPattern)
    (x : Xfer) : s.select addr x = s.selectPort addr x :=
  State.select_of_not_fixed (fun hmem => (Config.addrs_of_ok hok).2 addr hmem h) x

/-! ## Port addresses -/

/-- The directions with a property, in the fixed order. -/
theorem Dir.filter_all (p : Dir → Bool) : Dir.all.filter p =
    (if p .right then [Dir.right] else []) ++ (if p .down then [Dir.down] else []) ++
      (if p .left then [Dir.left] else []) ++ (if p .up then [Dir.up] else []) := by
  simp only [Dir.all, List.filter_cons, List.filter_nil]
  cases p .right <;> cases p .down <;> cases p .left <;> cases p .up <;> rfl

/-- The channels of a port selection are the links of the selected neighbours that are there. -/
theorem State.selectPort_fst (h : addr.extractLsb' 0 4 = s.cfg.portPattern) (x : Xfer) :
    (s.selectPort addr x).map Prod.fst =
      (Dir.all.filter fun d => dirSelected addr d && s.present (.link d)).map Chan.link := by
  rw [State.selectPort, if_pos h, List.map_map]
  rfl

/-- Settles O46: no fixed address is a port address, and the selector walks the directions in order. -/
theorem selectionOrderAndAbsence : Obligations.SelectionOrderAndAbsence := by
  intro s addr x hok hpattern
  rw [State.select_of_pattern hok hpattern, State.selectPort_fst hpattern, Dir.filter_all]
  simp only [dirSelected, State.present, Bool.and_eq_true, Bool.not_eq_true']

/-- Settles O47: the model's selection run on the sixteen addresses. -/
theorem portAddressesOfTheDirectionNames : Obligations.PortAddressesOfTheDirectionNames := by
  unfold Obligations.PortAddressesOfTheDirectionNames
  decide

/-! ## Nothing selected -/

theorem State.hostChan_of_absent {ch : Chan} (h : s.present ch = false) : s.hostChan ch = [] := by
  simp [State.hostChan, h]

theorem State.hostChan_of_present {ch : Chan} (h : s.present ch = true) : s.hostChan ch = [(ch, 0#18)] := by
  simp [State.hostChan, h]

theorem State.selectPort_of_absent (h : ∀ d, dirSelected addr d = true → s.present (.link d) = false)
    (x : Xfer) : s.selectPort addr x = [] := by
  unfold State.selectPort
  split
  · simpa using fun d _ => h d
  · rfl

/-- A read that selects nothing yields 0 and is recorded (R78). -/
theorem State.ioRead_of_select_nil (hio : addr ≠ s.cfg.addrIo) (h : s.select addr .read = []) :
    s.ioRead addr = some (0#18, s.diag .unmapped) := by
  simp only [State.ioRead, if_neg hio, h]

/-- A write that selects nothing is dropped and recorded (R78). -/
theorem State.ioWrite_of_select_nil (h : s.select addr .write = []) (v : Word) :
    s.ioWrite addr v = s.diag .unmapped := by
  simp only [State.ioWrite, h]

/-- Settles O48: the selection at each fixed address and at a port address, then what becomes of an access
that selects nothing. -/
theorem unmappedAccesses : Obligations.UnmappedAccesses := by
  intro s hok
  refine ⟨?_, ?_, fun x => ?_, fun h => ?_, fun h => ?_, fun h x => ?_, fun addr x hfixed hport => ?_,
    fun addr x hport h => ?_, fun addr hio h => ?_, fun addr v h => ?_⟩
  · rw [State.select_addrStdout hok]; rfl
  · rw [State.select_addrStdin]; rfl
  · exact ⟨State.select_addrData hok x, State.select_addrIo hok x⟩
  · rw [State.select_addrStdin, State.select_addrStdio hok, State.hostChan_of_absent h]
    exact ⟨rfl, rfl⟩
  · rw [State.select_addrStdout hok, State.select_addrStdio hok, State.hostChan_of_absent h]
    exact ⟨rfl, rfl⟩
  · rw [State.select_addrTty hok, State.hostChan_of_absent h]
  · rw [State.select_of_not_fixed hfixed, State.selectPort, if_neg hport]
  · rw [State.select_of_pattern hok hport, State.selectPort_of_absent h]
  · exact State.ioRead_of_select_nil hio h
  · exact State.ioWrite_of_select_nil h v

end Sys2Proof.Machine
end

section
/-! PROOFS. Reads of channels: the first ready one answers, and what becomes of its answer
(spec/20_memory.md R80, R94 to R98). -/

namespace Sys2Proof.Machine

variable {s u : State} {addr : Addr} {ch : Chan} {rest : List (Answer 18)}

/-! ## The channel that answers -/

/-- A channel that is not ready has no answer waiting. -/
theorem State.pending_eq_nil_of_not_ready (h : s.rdReady ch = false) : s.pending ch = [] := by
  simpa [State.rdReady] using h

/-- A read is answered by the first ready channel of its selection (R94, R95). -/
theorem State.ioRead_of_first_ready {pre post : List (Chan × Word)} {m : Word} {x : Answer 18}
    (hio : addr ≠ s.cfg.addrIo) (hsel : s.select addr .read = pre ++ (ch, m) :: post)
    (hpre : ∀ e ∈ pre, s.rdReady e.1 = false) (hx : s.pending ch = x :: rest) :
    s.ioRead addr = some ((s.takeAnswer ch).settle ch x) := by
  have hserve : s.service (s.select addr .read) = some ((s.takeAnswer ch).settle ch x) := by
    rw [hsel, State.service_append fun e he => State.pending_eq_nil_of_not_ready (hpre e he)]
    simp only [State.service, hx]
  have hne : s.select addr .read ≠ [] := by simp [hsel]
  unfold State.ioRead
  rw [if_neg hio]
  split
  · next hnil => exact absurd hnil hne
  · exact hserve

/-! ## What a taken answer leaves -/

/-- Taking the oldest answer leaves the rest of its channel and all else (R80, R95). -/
theorem State.takeAnswer_tookAnswer {x : Answer 18} (hx : s.pending ch = x :: rest) :
    s.TookAnswer ch rest (s.takeAnswer ch) :=
  ⟨by rw [State.takeAnswer_pending, hx, List.tail_cons], fun _ hc => State.takeAnswer_pending_of_ne hc s,
    State.takeAnswer_quiet ch s⟩

/-- The answers that wait are told by the environment. -/
theorem State.pending_congr {t : State} (h : t.env = s.env) (c : Chan) : t.pending c = s.pending c := by
  cases c <;> simp only [State.pending, State.link, h]

/-- A change of both states that leaves the environment does not matter to what was taken. -/
theorem State.TookAnswer.map {f : State → State} (henv : ∀ v, (f v).env = v.env)
    (hquiet : ∀ v, (f v).quiet = f v.quiet) (h : s.TookAnswer ch rest u) :
    (f s).TookAnswer ch rest (f u) := by
  obtain ⟨hch, hother, hrest⟩ := h
  refine ⟨?_, fun c hc => ?_, ?_⟩
  · rw [State.pending_congr (henv u), hch]
  · rw [State.pending_congr (henv u), State.pending_congr (henv s), hother c hc]
  · rw [hquiet, hquiet, hrest]

/-! ## A word, a failure, an end of stream -/

/-- A character of the console as the answer of a read: its number (R98). -/
theorem State.takeAnswer_tty {x : Console} (htty : s.env.tty = some x) : s.takeAnswer .tty =
    { s with env := { s.env with tty := some { x with rx := x.rx.tail } } } := by
  simp only [State.takeAnswer, htty, Option.map_some]

/-- The answers of the console, its characters zero-extended. -/
theorem State.pending_tty {x : Console} (htty : s.env.tty = some x) :
    s.pending .tty = x.rx.map Answer.widen := by
  simp only [State.pending, htty]

/-- The read of a character from the console (R98). -/
theorem State.ioRead_addrTty {x : Console} {v : BitVec 8} {more : List (Answer 8)} (hok : s.cfg.ok = true)
    (htty : s.env.tty = some x) (hx : x.rx = .word v :: more) :
    s.ioRead s.cfg.addrTty = some (BitVec.ofNat 18 v.toNat,
      { s with env := { s.env with tty := some { x with rx := more } } }) := by
  have hne : s.cfg.addrTty ≠ s.cfg.addrIo := by
    have hnodup := Config.fixedAddrs_nodup hok
    simp_all [Config.fixedAddrs]
  have hsel : s.select s.cfg.addrTty .read = [] ++ (.tty, 0#18) :: [] := by
    rw [State.select_addrTty hok, State.hostChan_of_present (by simp [State.present, htty]), List.nil_append]
  have hpending : s.pending .tty = .word (v.setWidth 18) :: more.map Answer.widen := by
    rw [State.pending_tty htty, hx]
    rfl
  rw [State.ioRead_of_first_ready hne hsel (by simp) hpending, State.takeAnswer_tty htty, hx,
    BitVec.ofNat_toNat]
  rfl

/-- Settles O50: the first ready channel answers (`State.ioRead_of_first_ready`), and taking its word leaves
all else (`State.takeAnswer_tookAnswer`). -/
theorem readTakesOneWordFromTheFirstReadyChannel : Obligations.ReadTakesOneWordFromTheFirstReadyChannel :=
  ⟨fun _ _ _ _ _ _ _ _ hio hsel hpre hx =>
    ⟨State.ioRead_of_first_ready hio hsel hpre hx, State.takeAnswer_tookAnswer hx⟩,
    fun _ _ _ _ => State.ioRead_addrTty⟩

/-- A failure, or the end of stream of a channel that is no host input, yields 0 and is recorded (R96). -/
theorem State.settle_of_failure {x : Answer 18} (h : x = .err ∨ (x = .eos ∧ ch ≠ .stdin ∧ ch ≠ .tty))
    (s : State) : s.settle ch x = (0#18, s.diag (.channelError ch)) := by
  rcases h with rfl | ⟨rfl, hin, htty⟩
  · rfl
  · simp only [State.settle, hin, htty, or_self, if_false]

/-- Settles O51: the first ready channel answers with a failure (`State.settle_of_failure`). -/
theorem failedReadYieldsZero : Obligations.FailedReadYieldsZero := by
  intro s addr pre post ch m x rest hio hsel hpre hx hfail
  refine ⟨?_, (State.takeAnswer_tookAnswer hx).map (f := State.diag (.channelError ch)) (fun _ => rfl)
    fun _ => rfl⟩
  rw [State.ioRead_of_first_ready hio hsel hpre hx, State.settle_of_failure hfail]

/-- Settles O52: the first ready channel answers with the end of a host input, which sets `halt`. -/
theorem endOfHostInputSetsHalt : Obligations.EndOfHostInputSetsHalt := by
  intro s addr pre post ch m rest hio hsel hpre hx hhost
  refine ⟨?_, (State.takeAnswer_tookAnswer hx).map (f := State.setHalt) (fun _ => rfl) fun _ => rfl⟩
  rw [State.ioRead_of_first_ready hio hsel hpre hx, State.settle, if_pos hhost]

end Sys2Proof.Machine
end

section
/-! PROOFS. Writes to channels: each selected one is sent the word once, and each failing one is recorded
(spec/20_memory.md R93, R98; spec/60_exceptions.md R264). -/

namespace Sys2Proof.Machine

variable {s : State} {addr : Addr} {ch : Chan} {d : Dir} {l : Link}

/-! ## One channel -/

/-- What a send leaves on the link it is made on: the word, or on a failing link nothing (R93). -/
theorem State.send_link_self (h : s.link d = some l) (v : Word) :
    (s.send (.link d) v).link d = some (if l.sendErr = false then { l with tx := l.tx ++ [v] } else l) := by
  simp only [State.send, h]
  cases l.sendErr with
  | true => exact h
  | false => exact PerDir.get_set_self _ d _

/-- A send leaves every other link. -/
theorem State.send_link_of_ne (h : ch ≠ .link d) (v : Word) (s : State) :
    (s.send ch v).link d = s.link d := by
  cases ch with
  | link d' =>
    have hd : d' ≠ d := fun e => h (congrArg Chan.link e)
    simp only [State.send]
    split
    · split
      · rfl
      · exact PerDir.get_set_of_ne _ _ hd
    · rfl
  | stdin => rfl
  | stdout | tty =>
    simp only [State.send]
    split
    · split <;> rfl
    · rfl

/-! ## All the selected channels -/

/-- Sending to different channels sends to each link among them once. -/
theorem State.sendAll_link {chans : List (Chan × Word)} (hnodup : (chans.map Prod.fst).Nodup) (v : Word)
    (h : s.link d = some l) : (chans.foldl (fun s e => s.send e.1 v) s).link d =
      some (if .link d ∈ chans.map Prod.fst ∧ l.sendErr = false
        then { l with tx := l.tx ++ [v] } else l) := by
  induction chans generalizing s l with
  | nil => simpa using h
  | cons e chans ih =>
    obtain ⟨hout, hnodup⟩ := List.nodup_cons.mp hnodup
    rw [List.foldl_cons]
    by_cases he : e.1 = .link d
    · rw [he] at hout ⊢
      rw [ih hnodup (State.send_link_self h v)]
      simp [he, hout]
    · rw [ih hnodup ((State.send_link_of_ne he v s).trans h)]
      simp [Ne.symm he]

/-- Sending records the channels among them that fail, the last one first. -/
theorem State.sendAll_diags (chans : List (Chan × Word)) (v : Word) (s : State) :
    (chans.foldl (fun s e => s.send e.1 v) s).diags =
      (((chans.map Prod.fst).filter s.sendFails).map Diag.channelError).reverse ++ s.diags := by
  induction chans generalizing s with
  | nil => rfl
  | cons e chans ih =>
    have hfails : (s.send e.1 v).sendFails = s.sendFails := funext fun c => State.send_sendFails e.1 c v s
    rw [List.foldl_cons, ih, hfails, State.send_diags, List.map_cons, List.filter_cons]
    split <;> simp

theorem State.hostChan_nodup (s : State) (ch : Chan) : ((s.hostChan ch).map Prod.fst).Nodup := by
  unfold State.hostChan
  split <;> simp

theorem State.selectPort_nodup (s : State) (addr : Addr) (x : Xfer) :
    ((s.selectPort addr x).map Prod.fst).Nodup := by
  by_cases h : addr.extractLsb' 0 4 = s.cfg.portPattern
  · rw [State.selectPort_fst h]
    exact ((by decide : Dir.all.Nodup).filter _).map fun _ _ => Chan.link.inj
  · simp [State.selectPort, h]

/-- A selection names no channel twice. -/
theorem State.select_nodup (s : State) (addr : Addr) (x : Xfer) : ((s.select addr x).map Prod.fst).Nodup := by
  unfold State.select
  split_ifs
  · exact s.hostChan_nodup .stdin
  · exact List.nodup_nil
  · exact s.hostChan_nodup .stdout
  · exact List.nodup_nil
  · exact s.hostChan_nodup .stdin
  · exact s.hostChan_nodup .stdout
  · exact s.hostChan_nodup .tty
  · exact List.nodup_nil
  · exact s.selectPort_nodup addr x

/-- A write that selects something sends to all that it selects. -/
theorem State.ioWrite_of_select (h : s.select addr .write ≠ []) (v : Word) :
    s.ioWrite addr v = (s.select addr .write).foldl (fun s e => s.send e.1 v) s := by
  unfold State.ioWrite
  split
  · next hnil => exact absurd hnil h
  · rfl

/-- Settles O53: each selected link is sent to once (`State.sendAll_link`), each failing channel recorded
(`State.sendAll_diags`). -/
theorem writeReachesEverySelectedNeighbour : Obligations.WriteReachesEverySelectedNeighbour := by
  intro s addr v
  refine ⟨fun d l h => ?_, fun hne => ?_⟩
  · by_cases hsel : s.select addr .write = []
    · rw [State.ioWrite_of_select_nil hsel, hsel]
      simp only [List.map_nil, List.not_mem_nil, false_and, if_false]
      exact h
    · rw [State.ioWrite_of_select hsel]
      exact State.sendAll_link (s.select_nodup addr .write) v h
  · rw [State.ioWrite_of_select hne]
    exact State.sendAll_diags _ v s

/-! ## The host channels -/

/-- A write that selects one channel is a send on it. -/
theorem State.ioWrite_of_select_single {m : Word} (h : s.select addr .write = [(ch, m)]) (v : Word) :
    s.ioWrite addr v = s.send ch v := by
  rw [State.ioWrite_of_select (by simp [h]), h]
  rfl

/-- Settles O54: each of the three addresses selects its one channel, and the write is a send on it. -/
theorem hostWritesSendOrRecordTheFailure : Obligations.HostWritesSendOrRecordTheFailure := by
  intro s v hok
  refine ⟨fun x hx addr haddr => ?_, fun x hx => ?_⟩
  · have hpresent : s.present .stdout = true := by simp [State.present, hx]
    have hsel : s.select addr .write = [(.stdout, 0#18)] := by
      rw [← State.hostChan_of_present hpresent]
      rcases List.mem_pair.mp haddr with rfl | rfl
      · exact State.select_addrStdout hok .write
      · exact State.select_addrStdio hok .write
    rw [State.ioWrite_of_select_single hsel, State.send, hx]
    rfl
  · have hpresent : s.present .tty = true := by simp [State.present, hx]
    have hsel : s.select s.cfg.addrTty .write = [(.tty, 0#18)] := by
      rw [← State.hostChan_of_present hpresent]
      exact State.select_addrTty hok .write
    rw [State.ioWrite_of_select_single hsel, State.send, hx, ← BitVec.setWidth_eq_extractLsb' (by decide)]
    rfl

end Sys2Proof.Machine
end
